-- ==== Sys2Proof/Word.lean ====
section
/-! DEFINITION. Word.lean: the word types of the Bee frame codec (rule R8: a byte is 8 bits, always unsigned; rule R6: W_SIZE is 17). -/

namespace Sys2Proof

/-- One byte on a stream, in the frame buffer or in an 8-bit register (R8, R33). -/
abbrev Byte := BitVec 8

/-- The width of `offset` and `declaredSize`: `W_SIZE` = 17 bits (R6, R11, R12). -/
abbrev Size := BitVec 17

/-- A 64-bit address: the destination of a payload-data frame (R60), the source of an inbound frame (R113). -/
abbrev Address := BitVec 64

/-- A 16-bit source address of an inbound frame (R113). -/
abbrev ShortAddress := BitVec 16

end Sys2Proof
end

