-- ==== Sys2Proof/Config.lean ====
section
/-! DEFINITION. Config.lean: the fixed constants (R5), the implementation parameters (R6) and the free values. -/

namespace Sys2Proof

/-! ### Fixed constants (R5) -/

/-- The delimiter byte (R5). -/
abbrev DELIM : Byte := 0x7E
/-- The escape marker (R5). -/
abbrev ESC : Byte := 0x7D
/-- The value XORed into an escaped byte (R5). -/
abbrev ESC_MASK : Byte := 0x20
/-- The byte values an escaping encoder never sends bare after the delimiter (R5, R57). -/
abbrev RESERVED : List Byte := [0x11, 0x13, 0x7D, 0x7E]
/-- The buffer index of the frame-type byte, and the constant of the "+3 convention" (R5). -/
abbrev HDR : Nat := 3
/-- The frame-id counter counts modulo this (R5). -/
abbrev FRAME_ID_MOD : Nat := 255
/-- The frame-type byte of the local AT-command response (R5). -/
abbrev FT_AT_RESP : Byte := 0x88
/-- The reset value of the frame-id counter (R6, R26). -/
abbrev FRAME_ID_RESET : Byte := 1

/-! ### Implementation parameters (R6) -/

/-- The parameters R6 leaves to the implementation, one field each.  A state carries them and nothing writes them
(R25, R163), so a claim about every state is a claim about every parameter value. -/
structure Config where
  /-- `BUF_CAP`, the number of bytes of the decoder's frame buffer. -/
  bufCap : Nat
  /-- `AT_BUF_CAP`, the number of bytes of the command frame's fixed buffer. -/
  atBufCap : Nat
  /-- `TX_MAX_N`, the longest payload of a payload-data frame. -/
  txMaxN : Nat
  /-- `FT_AT_CMD`, the frame type of the local command frame. -/
  ftAtCmd : Byte
  /-- `FT_RX_EXPLICIT`, the frame type of the explicit-addressing receive indicator. -/
  ftRxExplicit : Byte
  /-- `FT_RX_NET`, the frame type of the network receive indicator. -/
  ftRxNet : Byte
  /-- `TX_PRE`, the header bytes between the length field and the destination address. -/
  txPre : List Byte
  /-- `TX_POST`, the fixed network-broadcast fields after the destination address. -/
  txPost : List Byte
  /-- `AT_ESCAPE`: is the local command frame byte-stuffed?  Default true (R6). -/
  atEscape : Bool := true
  deriving DecidableEq, Repr

/-- The constraints R6 puts on the parameters (with 92_eei_decisions.md D28 for the three inbound frame types). -/
abbrev Config.Valid (c : Config) : Prop :=
  4 ≤ c.bufCap ∧ c.bufCap ≤ 65539 ∧ 8 ≤ c.atBufCap ∧ c.atBufCap ≤ 259 ∧
  c.ftRxExplicit ≠ c.ftRxNet ∧ c.ftRxExplicit ≠ FT_AT_RESP ∧ c.ftRxNet ≠ FT_AT_RESP ∧
  1 ≤ c.txPre.length ∧ c.txPre.length + 8 + c.txPost.length + c.txMaxN ≤ 65535

/-- The example profile P0 of 95_test_vectors.md.  PRESUMED (log 3): its frame types and header bytes are general
knowledge, not facts of the hardware; only the state after reset carries it, and no statement rests on it. -/
def Config.profileP0 : Config where
  bufCap := 32
  atBufCap := 32
  txMaxN := 100
  ftAtCmd := 0x08
  ftRxExplicit := 0x91
  ftRxNet := 0x90
  txPre := [0x10, 0x01]
  txPost := [0xFF, 0xFE, 0x00, 0x00]

/-! ### Free values (R21, R22, R26: `txAcc` and `txBuf` are undefined between commands; R100 names no byte past its
sequence's end)

Constants without a body: nothing in Lean can evaluate them, so nothing can be proved of the value (logs 4, 18). -/

/-- What the encoder's accumulator holds after the n-th send command. -/
opaque Config.freeTxAcc : Nat → Byte
/-- What the encoder's transient buffer holds after the n-th send command. -/
opaque Config.freeTxBuf : Nat → List Byte
/-- What the n-th `CHECKSUM` past the end of its byte sequence reads at an index the sequence does not have (log 18). -/
opaque Config.freeChecksumByte : Nat → Nat → Byte

end Sys2Proof
end

