-- ==== Sys2Proof/Syntax.lean ====
section
/-! DEFINITION. Syntax.lean: the operations (one constructor per row of spec/opcode_table.json), their operands, and the
inputs that select them. -/

namespace Sys2Proof

/-- Which accumulator a checksum primitive works on (R101 to R103, R106). -/
inductive AccSel where
  /-- The decoder's `checksumAccumulator` (R14). -/
  | dec
  /-- The encoder's `txAcc` (R21). -/
  | enc
  deriving DecidableEq, Repr

/-- The byte sequence `CHECKSUM` reads (R100: "the decoder's `buffer` or the encoder's `txBuf`"). -/
inductive CsSource where
  /-- The decoder's frame buffer. -/
  | decBuffer
  /-- The encoder's transient buffer. -/
  | encBuffer
  /-- A byte list handed over directly (opcode_table.json: `buf` is a byte list). -/
  | bytes (l : List Byte)
  deriving DecidableEq, Repr

/-- The operations of the block. -/
inductive Instr where
  /-- `RX_HALTED` (R149): a byte received while `fatal = 1`. -/
  | rxHalted (b : Byte)
  /-- `RX_DELIM` (R76): the delimiter. -/
  | rxDelim
  /-- `RX_IGNORED` (R77): a byte outside any frame. -/
  | rxIgnored (b : Byte)
  /-- `RX_LENHI` (R78): the length-high byte. -/
  | rxLenHi (b : Byte)
  /-- `RX_LENLO` (R79): the length-low byte, the frame fits. -/
  | rxLenLo (b : Byte)
  /-- `RX_LENLO.reject` (R80): the length-low byte, the frame does not fit. -/
  | rxLenLoReject (b : Byte)
  /-- `RX_UNESC` (R82): the byte after a marker, then `RX_DATA` or `RX_CSUM`. -/
  | rxUnesc (b : Byte)
  /-- `RX_ESC` (R81): the escape marker. -/
  | rxEsc
  /-- `RX_DATA` (R83): a frame-data byte. -/
  | rxData (v : Byte)
  /-- `RX_CSUM` (R84): the checksum byte. -/
  | rxCsum (v : Byte)
  /-- `TX_RAW` (R62, R120): one logical byte written as it is, unchecked. -/
  | txRaw (v : Byte)
  /-- `TX_ESCAPED` (R62, R120): a reserved logical byte written as an escape pair. -/
  | txEscaped (v : Byte)
  /-- `TX_PLAIN` (R62, R120): an unreserved logical byte. -/
  | txPlain (v : Byte)
  /-- `SEND_AT` (R122): send a local command frame. -/
  | sendAt (cmd0 cmd1 : Byte) (param : List Byte)
  /-- `SEND_DATA_RAW` (R124): send a payload-data frame, one bulk write, unstuffed. -/
  | sendDataRaw (dest : Address) (payload : List Byte)
  /-- `SEND_DATA_ESC` (R125): send a payload-data frame, streamed and stuffed. -/
  | sendDataEsc (dest : Address) (payload : List Byte)
  /-- `CMD_NONE` (R63): no command. -/
  | cmdNone
  /-- `CHECKSUM` (R100): the bulk function. -/
  | checksum (buf : CsSource) (length : Nat)
  /-- `CS_CLEAR` (R101). -/
  | csClear (acc : AccSel)
  /-- `CS_ADD` (R102). -/
  | csAdd (acc : AccSel) (v : Byte)
  /-- `CS_FINAL` (R103). -/
  | csFinal (acc : AccSel)
  /-- `ESC_EMIT` (R120): write one logical byte with byte stuffing. -/
  | escEmit (v : Byte)
  /-- `FID_NEXT` (R121): advance the frame-id counter. -/
  | fidNext
  /-- `RESET` (R160). -/
  | reset
  deriving DecidableEq, Repr

/-- The command port (R63): the 2-bit select and the operand lines; a command reads the lines it uses. -/
structure CmdPort where
  /-- `cmd_op[1:0]`. -/
  op : BitVec 2
  /-- `cmd[0]`, the first byte of the command code (R32: a sequence of two bytes, not a number). -/
  cmd0 : Byte := 0
  /-- `cmd[1]`. -/
  cmd1 : Byte := 0
  /-- `dest`, the 64-bit destination address. -/
  dest : Address := 0
  /-- `param` of `SEND_AT`, `payload` of the two data commands. -/
  bytes : List Byte := []
  deriving DecidableEq, Repr

/-- What can be presented to the machine in one step (R7, R65; log 1).  `rx`, `cmd` and `reset` are the block's own
inputs (92_eei_decisions.md D1), `register` is the owner's call to the dispatcher (R117, R163).  `tx` and
`internal` run one stage of the block alone; no agent of R7 can present them (R63: no external encoding), and
`Event.external` says so (log 9). -/
inductive Event where
  /-- One received byte (format F-RXB). -/
  | rx (b : Byte)
  /-- One presentation of the command port (format F-CMD). -/
  | cmd (port : CmdPort)
  /-- The `RESET` input. -/
  | reset
  /-- The owner registers a frame callback; the number is the handler's identity. -/
  | register (handler : Nat)
  /-- One logical byte handed to the transmit stage (format F-TXB): from `SEND_DATA_RAW` or not, its logical index. -/
  | tx (rawEncoder : Bool) (index : Nat) (v : Byte)
  /-- One internal primitive alone. -/
  | internal (i : Instr)
  deriving DecidableEq, Repr

/-- The inputs an agent of R7 can present. -/
def Event.external : Event → Bool
  | .rx _ | .cmd _ | .reset | .register _ => true
  | .tx _ _ _ | .internal _ => false

end Sys2Proof
end

