-- ==== Sys2Proof/WellFormed.lean ====
section
/-! DEFINITION. WellFormed.lean: which operations can be presented as they stand (the byte conditions of R61, R62). -/

namespace Sys2Proof

/-- A byte other than the delimiter: the operand of every `RX` row below priority 1 (R61). -/
def notDelim (b : Byte) : Bool := b != DELIM

/-- A byte that reaches `RX_DATA` or `RX_CSUM` without `RX_UNESC`: neither the delimiter nor the marker (R61).  The two
other values reach them through `RX_UNESC` (R82), whose meaning runs the same operation. -/
def notDelimNorMarker (b : Byte) : Bool := b != DELIM && b != ESC

/-- Well-formed operations. -/
def Instr.wf : Instr → Bool
  | .rxHalted _ => true
  | .rxDelim => true
  | .rxIgnored b => notDelim b
  | .rxLenHi b => notDelim b
  | .rxLenLo b => notDelim b
  | .rxLenLoReject b => notDelim b
  | .rxUnesc b => notDelim b
  | .rxEsc => true
  | .rxData v => notDelimNorMarker v
  | .rxCsum v => notDelimNorMarker v
  | .txRaw _ => true
  | .txEscaped v => RESERVED.contains v
  | .txPlain v => !RESERVED.contains v
  | .sendAt _ _ _ => true
  | .sendDataRaw _ _ => true
  | .sendDataEsc _ _ => true
  | .cmdNone => true
  | .checksum _ _ => true
  | .csClear _ => true
  | .csAdd _ _ => true
  | .csFinal _ => true
  | .escEmit _ => true
  | .fidNext => true
  | .reset => true

end Sys2Proof
end

