-- ==== Sys2Proof/Decode.lean ====
section
/-! DEFINITION. Decode.lean: operation decode (R61 to R63), the encoder, and the words of spec/opcode_table.json. -/

namespace Sys2Proof

/-! ### Fields (R52 to R54) -/

/-- `v in RESERVED` (R57). -/
def isReserved (v : Byte) : Bool := RESERVED.contains v

/-- `{lenHigh, b}` (R52): the declared length, 0 to 65535. -/
def declaredLength (lenHigh b : Byte) : Nat := lenHigh.toNat * 256 + b.toNat

/-- `x xor 0x20` (R54, R82, R120). -/
def escXor (x : Byte) : Byte := x ^^^ ESC_MASK

/-- `L + 4 <= BUF_CAP`: a frame occupies indices 0 to `L + 3` (R79, R80). -/
def frameFits (length bufCap : Nat) : Bool := decide (length + 4 ≤ bufCap)

/-! ### Decode of a received byte (R61) -/

/-- What R61 tests: the registers as held before the step, and the buffer's capacity. -/
structure RxContext where
  /-- `fatal`. -/
  fatal : Bool
  /-- `ignoring`. -/
  ignoring : Bool
  /-- `escapePending`. -/
  escapePending : Bool
  /-- `offset`. -/
  offset : Size
  /-- `declaredSize`. -/
  declaredSize : Size
  /-- `lenHigh`. -/
  lenHigh : Byte
  /-- `BUF_CAP`. -/
  bufCap : Nat
  deriving DecidableEq, Repr

/-- R61 and the last line of R75's pseudocode: the first condition that holds selects the operation. -/
def decodeRx (c : RxContext) (b : Byte) : Instr :=
  if c.fatal then .rxHalted b
  else if b = DELIM then .rxDelim
  else if c.ignoring then .rxIgnored b
  else if c.offset = 0 then .rxLenHi b
  else if c.offset = 1 then
    if frameFits (declaredLength c.lenHigh b) c.bufCap then .rxLenLo b else .rxLenLoReject b
  else if c.escapePending then .rxUnesc b
  else if b = ESC then .rxEsc
  else if c.offset.toNat + 1 < c.declaredSize.toNat then .rxData b
  else .rxCsum b

/-! ### Decode of a byte to be transmitted (R62) and of a command (R63) -/

/-- Why an input decodes to no operation. -/
inductive DecodeError where
  /-- An escaping encoder's logical byte 0 that is not the delimiter: R62 has no line for it. -/
  | noDelimiterAtIndexZero
  /-- An operation handed over as an internal primitive that is none (R63). -/
  | notInternal
  /-- A call to the dispatcher (R117): it is no operation of the block. -/
  | notAnOperation
  deriving DecidableEq, Repr

/-- R62: `SEND_DATA_RAW` uses `TX_RAW` for every byte; an escaping encoder uses it for the delimiter at index 0 only. -/
def decodeTx (rawEncoder : Bool) (index : Nat) (v : Byte) : Except DecodeError Instr :=
  if rawEncoder then .ok (.txRaw v)
  else if index = 0 then
    if v = DELIM then .ok (.txRaw v) else .error .noDelimiterAtIndexZero
  else if isReserved v then .ok (.txEscaped v)
  else .ok (.txPlain v)

/-- R63: the command select. -/
def decodeCmd (p : CmdPort) : Instr :=
  if p.op = 0 then .cmdNone
  else if p.op = 1 then .sendAt p.cmd0 p.cmd1 p.bytes
  else if p.op = 2 then .sendDataRaw p.dest p.bytes
  else .sendDataEsc p.dest p.bytes

/-- The rows of format "internal": invoked by other rules, with no external encoding (R63). -/
def Instr.isInternal : Instr → Bool
  | .checksum _ _ | .csClear _ | .csAdd _ _ | .csFinal _ | .escEmit _ | .fidNext => true
  | .rxHalted _ | .rxDelim | .rxIgnored _ | .rxLenHi _ | .rxLenLo _ | .rxLenLoReject _ | .rxUnesc _ | .rxEsc
  | .rxData _ | .rxCsum _ | .txRaw _ | .txEscaped _ | .txPlain _ | .sendAt _ _ _ | .sendDataRaw _ _
  | .sendDataEsc _ _ | .cmdNone | .reset => false

/-- The operation an input selects, given the registers R61 tests. -/
def decode (c : RxContext) : Event → Except DecodeError Instr
  | .rx b => .ok (decodeRx c b)
  | .cmd p => .ok (decodeCmd p)
  | .reset => .ok .reset
  | .register _ => .error .notAnOperation
  | .tx rawEncoder index v => decodeTx rawEncoder index v
  | .internal i => if i.isInternal then .ok i else .error .notInternal

/-! ### The encoder -/

/-- The input that selects a well-formed operation, from the table's formats: the received byte (F-RXB), the command
select with its operands (F-CMD), the logical byte (F-TXB), the `RESET` input, or the primitive itself. -/
def encode : Instr → Event
  | .rxHalted b => .rx b
  | .rxDelim => .rx DELIM
  | .rxIgnored b => .rx b
  | .rxLenHi b => .rx b
  | .rxLenLo b => .rx b
  | .rxLenLoReject b => .rx b
  | .rxUnesc b => .rx b
  | .rxEsc => .rx ESC
  | .rxData v => .rx v
  | .rxCsum v => .rx v
  | .txRaw v => .tx true 0 v
  | .txEscaped v => .tx false 1 v
  | .txPlain v => .tx false 1 v
  | .sendAt cmd0 cmd1 param => .cmd { op := 0b01, cmd0 := cmd0, cmd1 := cmd1, bytes := param }
  | .sendDataRaw dest payload => .cmd { op := 0b10, dest := dest, bytes := payload }
  | .sendDataEsc dest payload => .cmd { op := 0b11, dest := dest, bytes := payload }
  | .cmdNone => .cmd { op := 0b00 }
  | .checksum buf length => .internal (.checksum buf length)
  | .csClear acc => .internal (.csClear acc)
  | .csAdd acc v => .internal (.csAdd acc v)
  | .csFinal acc => .internal (.csFinal acc)
  | .escEmit v => .internal (.escEmit v)
  | .fidNext => .internal .fidNext
  | .reset => .reset

/-- Each row's `state_condition` of spec/opcode_table.json, written from the row alone (not from R61's order); a row with
none holds in every context.  `RX_DATA` and `RX_CSUM` stand here in the form a received byte selects directly. -/
def Instr.selectedIn (c : RxContext) : Instr → Bool
  | .rxHalted _ => c.fatal
  | .rxDelim => !c.fatal
  | .rxIgnored _ => !c.fatal && c.ignoring
  | .rxLenHi _ => !c.fatal && !c.ignoring && c.offset == 0
  | .rxLenLo b =>
      !c.fatal && !c.ignoring && c.offset == 1 && decide (declaredLength c.lenHigh b + 4 ≤ c.bufCap)
  | .rxLenLoReject b =>
      !c.fatal && !c.ignoring && c.offset == 1 && decide (declaredLength c.lenHigh b + 4 > c.bufCap)
  | .rxUnesc _ => !c.fatal && !c.ignoring && decide (c.offset.toNat ≥ 2) && c.escapePending
  | .rxEsc => !c.fatal && !c.ignoring && decide (c.offset.toNat ≥ 2) && !c.escapePending
  | .rxData _ =>
      !c.fatal && !c.ignoring && decide (c.offset.toNat ≥ 2) && !c.escapePending &&
        decide (c.offset.toNat + 1 < c.declaredSize.toNat)
  | .rxCsum _ =>
      !c.fatal && !c.ignoring && decide (c.offset.toNat ≥ 2) && !c.escapePending &&
        decide (c.offset.toNat + 1 = c.declaredSize.toNat)
  | .txRaw _ | .txEscaped _ | .txPlain _ => true
  | .sendAt _ _ _ | .sendDataRaw _ _ | .sendDataEsc _ _ | .cmdNone => true
  | .checksum _ _ | .csClear _ | .csAdd _ _ | .csFinal _ | .escEmit _ | .fidNext => true
  | .reset => true

/-! ### The words of spec/opcode_table.json (log 8)

Several rows share one word (`RX_DELIM` and `TX_RAW` are both 0x7E; eight `RX` rows leave all eight bits free), so a
word is read as the matching row with the most fixed bits, the first of two equals: the bytes 0x7E and 0x7D as received
bytes, then the command selects 0 to 3, then any other byte as a received byte.  The 32-bit word is the table's list of
the four alternatives of `TX_ESCAPED`; its first byte is the logical byte. -/

/-- The four bytes of a 32-bit table word, the first word's byte first. -/
def tableBytes (w : Nat) : List Byte :=
  [BitVec.ofNat 8 w, BitVec.ofNat 8 (w / 256), BitVec.ofNat 8 (w / 65536), BitVec.ofNat 8 (w / 16777216)]

/-- The input a table word stands for; operands above the word are zeros. -/
def tableEvent (nbits w : Nat) : Option Event :=
  if nbits = 8 then
    if w = 0x7E ∨ w = 0x7D then some (.rx (BitVec.ofNat 8 w))
    else if w < 4 then some (.cmd { op := BitVec.ofNat 2 w })
    else if w < 256 then some (.rx (BitVec.ofNat 8 w))
    else none
  else if nbits = 32 ∧ w < 4294967296 ∧ (tableBytes w).all isReserved then
    some (.tx false 1 (BitVec.ofNat 8 w))
  else none

/-- `Start`: the context of a received byte right after reset (R18, R26); the capacity is not looked at there. -/
def startContext : RxContext where
  fatal := false
  ignoring := false
  escapePending := false
  offset := 0
  declaredSize := 0
  lenHigh := 0
  bufCap := 0

/-- `LengthLow` of an empty frame: the least context in which the byte 0x7D is the escape marker (R81). -/
def lengthLowContext : RxContext := { startContext with offset := 2, declaredSize := 3 }

/-- The context in which a table input is read: `RX_ESC` needs both length bytes consumed (R81), all else `Start`. -/
def tableContext (e : Event) : RxContext := if e = .rx ESC then lengthLowContext else startContext

/-- The operation the decoder reads from a table word. -/
def decodeTableWord (nbits w : Nat) : Option Instr :=
  match tableEvent nbits w with
  | none => none
  | some e => (decode (tableContext e) e).toOption

end Sys2Proof
end

