-- ==== Sys2Proof/Machine/State.lean ====
section
/-! DEFINITION. Machine/State.lean: the state of the block (R10), of its interfaces and of the frame's consumer; the reset
state (R26); the reasons a step can stop. -/

namespace Sys2Proof.Machine

/-- The frame buffer (R17): address and byte, addresses strictly rising, no byte equal to 0x00, which is what every
unlisted index reads as (R26, R31). -/
abbrev Memory := List Host.Cell

/-- The canonical form of a memory. -/
abbrev Memory.Canonical (m : Memory) : Prop :=
  m.Pairwise (fun x y => x.1 < y.1) ∧ ∀ c ∈ m, c.2 ≠ 0

/-- A memory is well-formed when it has the canonical form. -/
def Memory.wf (m : Memory) : Bool := decide m.Canonical

/-- The decoder state `Dec` (R10). -/
structure Dec where
  /-- Structural bytes consumed since the last delimiter (R11). -/
  offset : Size
  /-- `L + 3`, the buffer index of the checksum byte; 0 until it is known (R12). -/
  declaredSize : Size
  /-- The length-high byte (R13). -/
  lenHigh : Byte
  /-- The running sum of the frame data, modulo 256 (R14). -/
  checksumAccumulator : Byte
  /-- The previous byte was the escape marker (R15). -/
  escapePending : Bool
  /-- Every byte but the delimiter is discarded (R16). -/
  ignoring : Bool
  /-- The frame buffer (R17). -/
  buffer : Memory
  deriving DecidableEq, Repr

/-- The encoder state `Enc` (R10). -/
structure Enc where
  /-- The frame-id counter (R20). -/
  frameId : Byte
  deriving DecidableEq, Repr

/-- The encoder's registers of one command (R21, R22).  Between commands they hold free values (R26; log 4). -/
structure Transient where
  /-- The encoder's checksum accumulator (R21). -/
  txAcc : Byte
  /-- The buffer a command assembles its frame in (R22). -/
  txBuf : List Byte
  deriving DecidableEq, Repr

/-- One write transaction (R39). -/
inductive WriteTxn where
  /-- `out(v)`: one `writeByte`. -/
  | byte (v : Byte)
  /-- `outN(list)`: one `writeBytes`. -/
  | bulk (l : List Byte)
  deriving DecidableEq, Repr

/-- The bytes of a transaction, in order. -/
def WriteTxn.bytes : WriteTxn → List Byte
  | .byte v => [v]
  | .bulk l => l

/-- The conditions of R140 that surface nowhere, or as `fatal` only; kept as labels for testing. -/
inductive Condition where
  /-- E2: the received checksum byte differs (R145). -/
  | csumMismatch
  /-- E3: the declared length does not fit the buffer (R146). -/
  | rxOversize
  /-- E4: a delimiter cut a frame short (R76). -/
  | frameAborted
  /-- E5: the dispatcher does not recognise the frame (R116, R147). -/
  | unknownType
  /-- E7: `SEND_AT` with too many parameters (R123, R148). -/
  | txParamOversize
  /-- E8: a data payload too long (R126, R148). -/
  | txPayloadOversize
  deriving DecidableEq, Repr

/-- The decoded frame view the dispatcher hands to the callback (R112 to R116). -/
structure View where
  /-- `buffer[3]` (R110). -/
  frameType : Byte
  /-- The 64-bit source address, where the shape has one (R115). -/
  sourceAddress64 : Option Address
  /-- The 16-bit source address, where the shape has one (R115). -/
  sourceAddress16 : Option ShortAddress
  /-- Offset of the payload in the buffer (R117). -/
  payloadStart : Nat
  /-- Length of the payload (R116). -/
  payloadLength : Nat
  deriving DecidableEq, Repr

/-- One invocation of the registered callback (R117): the handler, the view, and the payload bytes the view shows at
that moment (R118: the view must not be retained). -/
structure Callback where
  /-- The registered handler. -/
  handler : Nat
  /-- The view it is passed. -/
  view : View
  /-- The bytes the view's offset and length select. -/
  payload : List Byte
  deriving DecidableEq, Repr

/-- The state.  `cfg` to `fatal` are the block's own (R6, R10); `transient` lives for one command (R21, R22);
`handler` is the dispatcher's (R117); the rest is the model's own, to present inputs and record outputs (logs 1, 2,
5, 6). -/
structure State where
  /-- The implementation parameters (R6); nothing writes them. -/
  cfg : Config
  /-- The decoder state (R10). -/
  dec : Dec
  /-- The encoder state (R10). -/
  enc : Enc
  /-- The block-wide fault flag (R23). -/
  fatal : Bool
  /-- `txAcc` and `txBuf` (R21, R22). -/
  transient : Transient
  /-- The registered callback (R117). -/
  handler : Option Nat
  /-- The inputs still to be presented, the next one first (R40: totally ordered). -/
  inputs : List Event
  /-- The written byte stream as write transactions, oldest first (R39). -/
  written : List WriteTxn
  /-- The `frame_ready(n)` events raised, oldest first (R88). -/
  frameReady : List Size
  /-- The callback invocations, oldest first (R117). -/
  callbacks : List Callback
  /-- The silent conditions detected, oldest first (R140). -/
  labels : List Condition
  /-- What `CHECKSUM` or `CS_FINAL`, run alone, last returned (R100, R103). -/
  returned : Option Byte
  /-- How many operations have used free values (logs 4, 18). -/
  freeCount : Nat
  deriving DecidableEq, Repr

/-- Why the machine stops with a fault. -/
inductive Fault where
  /-- A store to the frame buffer at an index of `BUF_CAP` or more, which does not exist (R30, R44).  Raised by
  `RX_LENLO`, `RX_DATA`, `RX_CSUM` and `RX_UNESC` in states no run reaches.  Safe: the machine stops. -/
  | bufferIndexOutOfRange (index : Nat)
  deriving DecidableEq, Repr

/-- Why an input or an operation has no meaning. -/
inductive Refusal where
  /-- Raised by `exec` for an operation without a meaning.  Safe: the machine stops. -/
  | notModelled (mnemonic : String)
  /-- Raised by `step` for an input that selects no operation; none of the block's own inputs is one.  Safe. -/
  | undecodable (reason : DecodeError)
  deriving DecidableEq, Repr

/-- The decoder's reset values (R26, R161: the state after a delimiter). -/
def Dec.fresh : Dec where
  offset := 0
  declaredSize := 0
  lenHigh := 0
  checksumAccumulator := 0
  escapePending := false
  ignoring := false
  buffer := []

/-- The state after reset of a block with the given parameters (R26).  `txAcc` and `txBuf` are undefined there
(R26); the values 0 and [] are a DESIGN CHOICE (log 4). -/
def State.resetWith (cfg : Config) : State where
  cfg := cfg
  dec := Dec.fresh
  enc := { frameId := FRAME_ID_RESET }
  fatal := false
  transient := { txAcc := 0, txBuf := [] }
  handler := none
  inputs := []
  written := []
  frameReady := []
  callbacks := []
  labels := []
  returned := none
  freeCount := 0

/-- The machine right after reset, with the parameters of the spec's example profile (log 3). -/
def State.reset : State := State.resetWith Config.profileP0

/-- The registers R61 tests. -/
def State.rxContext (s : State) : RxContext where
  fatal := s.fatal
  ignoring := s.dec.ignoring
  escapePending := s.dec.escapePending
  offset := s.dec.offset
  declaredSize := s.dec.declaredSize
  lenHigh := s.dec.lenHigh
  bufCap := s.cfg.bufCap

end Sys2Proof.Machine
end

