-- ==== Sys2Proof/Machine/Flags.lean ====
section
/-! DEFINITION. Machine/Flags.lean: the block's 8-bit arithmetic (R105) and the conditions that set its flags. -/

namespace Sys2Proof.Machine

/-! ### Checksum arithmetic (R100 to R104) -/

/-- `(acc + v) mod 256` (R102): the carry out of bit 7 is discarded. -/
def addByte (acc v : Byte) : Byte := acc + v

/-- `0xFF - acc` (R103): 8 bits, never borrows. -/
def complement (acc : Byte) : Byte := 0xFF - acc

/-- The sum modulo 256 of the `count` bytes of `f` from index `first` on. -/
def sumBytes (f : Nat → Byte) (first : Nat) : Nat → Byte
  | 0 => 0
  | count + 1 => addByte (sumBytes f first count) (f (first + count))

/-- `CHECKSUM(buf, length)` (R100) over the bytes `f i`: indices 3 to `length - 1`. -/
def checksumOf (f : Nat → Byte) (length : Nat) : Byte := complement (sumBytes f HDR (length - HDR))

/-- A byte list read by index (0x00 past its end). -/
def byteAt (l : List Byte) (i : Nat) : Byte := l.getD i 0

/-! ### Conditions -/

/-- The received checksum byte, after unescaping, equals the expected one (R84, R104 item 2). -/
def checksumMatches (acc v : Byte) : Bool := v == complement acc

/-- A frame is in progress: `LengthHigh`, `LengthLow` or `Payload` (R18; condition of E4, R140). -/
def frameInProgress (d : Dec) : Bool := !d.ignoring && d.offset != 0

/-- The next structural byte is frame data, not the checksum (R61 priorities 7 and 8): `offset + 1 < declaredSize`. -/
def beforeChecksum (d : Dec) : Bool := decide (d.offset.toNat + 1 < d.declaredSize.toNat)

/-- `8 + P <= AT_BUF_CAP` (R123). -/
def paramFits (c : Config) (param : List Byte) : Bool := decide (8 + param.length ≤ c.atBufCap)

/-- `N <= TX_MAX_N` (R126). -/
def payloadFits (c : Config) (payload : List Byte) : Bool := decide (payload.length ≤ c.txMaxN)

/-- `(frameId + 1) mod 255` (R121). -/
def frameIdNext (f : Byte) : Byte := BitVec.ofNat 8 ((f.toNat + 1) % FRAME_ID_MOD)

end Sys2Proof.Machine
end

