-- ==== Sys2Proof/Machine/Operands.lean ====
section
/-! DEFINITION. Machine/Operands.lean: the operand forms: the two accumulators, the byte sequences `CHECKSUM` reads, and the
frame layouts the commands assemble (R51, R59, R60). -/

namespace Sys2Proof.Machine

/-! ### The frame buffer as memory -/

/-- The byte at an index: 0x00 where none is listed. -/
def Memory.read : Memory → Nat → Byte
  | [], _ => 0
  | (k, w) :: rest, a => if k = a then w else Memory.read rest a

/-- Put a byte before a memory all of whose addresses are above it; 0x00 is not listed. -/
def Memory.cons (a : Nat) (v : Byte) (m : Memory) : Memory := if v = 0 then m else (a, v) :: m

/-- Store one byte; the canonical form is kept. -/
def Memory.write : Memory → Nat → Byte → Memory
  | [], a, v => Memory.cons a v []
  | (k, w) :: rest, a, v =>
    if a < k then Memory.cons a v ((k, w) :: rest)
    else if a = k then Memory.cons a v rest
    else (k, w) :: Memory.write rest a v

/-- Byte `i` of the decoder's frame buffer (R8 `buffer[i]`). -/
def State.bufferByte (s : State) (i : Nat) : Byte := s.dec.buffer.read i

/-- The consumer's read port (R35): the byte held at the index, no side effect; an index of `BUF_CAP` or more does not
exist. -/
def State.readPort (s : State) (i : Nat) : Option Byte :=
  if i < s.cfg.bufCap then some (s.bufferByte i) else none

/-! ### Accumulators and checksum sources (R100 to R103) -/

/-- The value of an accumulator. -/
def State.acc (s : State) : AccSel → Byte
  | .dec => s.dec.checksumAccumulator
  | .enc => s.transient.txAcc

/-- The byte a `CHECKSUM` source holds at an index. -/
def State.sourceByte (s : State) : CsSource → Nat → Byte
  | .decBuffer, i => s.bufferByte i
  | .encBuffer, i => byteAt s.transient.txBuf i
  | .bytes l, i => byteAt l i

/-- How many bytes a `CHECKSUM` source has. -/
def State.sourceSize (s : State) : CsSource → Nat
  | .decBuffer => s.cfg.bufCap
  | .encBuffer => s.transient.txBuf.length
  | .bytes l => l.length

/-- Does `CHECKSUM(buf, length)` read an index its source does not have?  It reads indices 3 to `length - 1` (R100), so
none at all for a `length` of 3 or less (corner case a). -/
def State.readsPastEnd (s : State) (buf : CsSource) (length : Nat) : Bool :=
  decide (HDR < length ∧ s.sourceSize buf < length)

/-- The byte `CHECKSUM` reads at an index: the source's, or a free value where the source has none (log 18). -/
def State.checksumByte (s : State) (buf : CsSource) (i : Nat) : Byte :=
  if i < s.sourceSize buf then s.sourceByte buf i else Config.freeChecksumByte s.freeCount i

/-! ### Frames the encoders build -/

/-- `L[15:8]` (R52). -/
def lengthHighByte (length : Nat) : Byte := BitVec.ofNat 8 (length / 256)

/-- `L[7:0]` (R52). -/
def lengthLowByte (length : Nat) : Byte := BitVec.ofNat 8 length

/-- The eight bytes of a 64-bit address, most significant first (R32, R124). -/
def bytesBE (dest : Address) : List Byte :=
  [dest.extractLsb' 56 8, dest.extractLsb' 48 8, dest.extractLsb' 40 8, dest.extractLsb' 32 8,
   dest.extractLsb' 24 8, dest.extractLsb' 16 8, dest.extractLsb' 8 8, dest.extractLsb' 0 8]

/-- The number a byte list stands for, most significant byte first (R115). -/
def valueBE (l : List Byte) : Nat := l.foldl (fun n b => n * 256 + b.toNat) 0

/-- The logical frame of some frame data (R51): delimiter, length, data, and the checksum of what stands before it. -/
def logicalFrame (data : List Byte) : List Byte :=
  let txBuf := [DELIM, lengthHighByte data.length, lengthLowByte data.length] ++ data
  txBuf ++ [checksumOf (byteAt txBuf) (data.length + 3)]

/-- The frame data of the local command frame, format F-AT (R59). -/
def atData (c : Config) (frameId cmd0 cmd1 : Byte) (param : List Byte) : List Byte :=
  [c.ftAtCmd, frameId, cmd0, cmd1] ++ param

/-- The frame data of the payload-data frame, format F-TX (R60). -/
def txData (c : Config) (dest : Address) (payload : List Byte) : List Byte :=
  c.txPre ++ bytesBE dest ++ c.txPost ++ payload

end Sys2Proof.Machine
end

