-- ==== Sys2Proof/Machine/Dispatcher.lean ====
section
/-! DEFINITION. Machine/Dispatcher.lean: the consumer of `frame_ready` (R110 to R118), outside the block (R4; log 10). -/

namespace Sys2Proof.Machine

/-- `sourceAddress64` (R115): the number at indices 4 to 11, big-endian. -/
def sourceAddress64 (m : Memory) : Address :=
  BitVec.ofNat 64 (valueBE ((List.range' 4 8).map m.read))

/-- `sourceAddress16` (R115): the number at indices 12 and 13, big-endian. -/
def sourceAddress16 (m : Memory) : ShortAddress :=
  BitVec.ofNat 16 (valueBE ((List.range' 12 2).map m.read))

/-- A view whose payload begins at `start`, or none when the frame is too short for it (R116). -/
def viewFrom (m : Memory) (n start : Nat) (a64 : Option Address) (a16 : Option ShortAddress) : Option View :=
  if n < start then none
  else some { frameType := m.read HDR, sourceAddress64 := a64, sourceAddress16 := a16,
              payloadStart := start, payloadLength := n - start }

/-- The view of a completed frame (R111 to R114), a function of the buffer and `n`. -/
def viewOf (c : Config) (m : Memory) (n : Nat) : Option View :=
  if m.read HDR = FT_AT_RESP then viewFrom m n 5 none none
  else if m.read HDR = c.ftRxExplicit then viewFrom m n 21 (some (sourceAddress64 m)) (some (sourceAddress16 m))
  else if m.read HDR = c.ftRxNet then viewFrom m n 15 (some (sourceAddress64 m)) (some (sourceAddress16 m))
  else none

/-- The bytes a view's offset and length select (R117). -/
def View.payload (v : View) (m : Memory) : List Byte := (List.range' v.payloadStart v.payloadLength).map m.read

/-- The dispatcher's work at `frame_ready(n)` (R110, R116, R117): no view is E5, a view without a registered handler is
dropped, a view with one is one callback. -/
def dispatchFrame (n : Size) (s : State) : State :=
  match viewOf s.cfg s.dec.buffer n.toNat with
  | none => { s with labels := s.labels ++ [.unknownType] }
  | some v =>
    match s.handler with
    | none => s
    | some h => { s with callbacks := s.callbacks ++ [{ handler := h, view := v, payload := v.payload s.dec.buffer }] }

/-- Registering a callback replaces the one before (R117).  DESIGN CHOICE (log 19): a registration always carries a
handler, so a filled slot is never emptied again; the spec says "optional" and "replaceable" and names no removal. -/
def registerHandler (h : Nat) (s : State) : State := { s with handler := some h }

end Sys2Proof.Machine
end

