-- ==== Sys2Proof/Machine/Ops.lean ====
section
/-! DEFINITION. Machine/Ops.lean: the named operations the meanings share: buffer stores, the two events (R143, R148), the
checksum primitives, the write transactions, and the decoder's transitions. -/

namespace Sys2Proof.Machine

/-- The outcome type of every operation that may stop. -/
abbrev Result := Host.Outcome State Fault Refusal

/-- Go on with the next state, or stay stopped. -/
def andThen (r : Result) (f : State → Result) : Result :=
  match r with
  | .next s => f s
  | .fault e => .fault e
  | .refused e => .refused e

/-- While `fatal = 1` the block does nothing (R23, R149). -/
def unlessHalted (s : State) (r : Result) : Result := if s.fatal then .next s else r

/-! ### Buffer and labels -/

/-- `buffer[i] <- v` (R8); the index exists only below `BUF_CAP` (R30, R44). -/
def storeByte (i : Nat) (v : Byte) (s : State) : Result :=
  if i < s.cfg.bufCap then .next { s with dec := { s.dec with buffer := s.dec.buffer.write i v } }
  else .fault (.bufferIndexOutOfRange i)

/-- Record a condition of R140 that surfaces nowhere. -/
def label (c : Condition) (s : State) : State := { s with labels := s.labels ++ [c] }

/-! ### The events -/

/-- Raise `frame_ready(n)` (R88, R143): nothing is saved and no mode changes; the event is surfaced, and the consumer
runs inside the step (R117). -/
def raiseFrameReady (n : Size) (s : State) : State :=
  dispatchFrame n { s with frameReady := s.frameReady ++ [n] }

/-- Raise a fatal event (R123, R126, R148): `fatal <- 1`, nothing else of the block changes. -/
def raiseFatal (c : Condition) (s : State) : State := { label c s with fatal := true }

/-! ### Checksum primitives (R101 to R103) and the frame-id counter (R121) -/

/-- Write an accumulator. -/
def setAcc (acc : AccSel) (v : Byte) (s : State) : State :=
  match acc with
  | .dec => { s with dec := { s.dec with checksumAccumulator := v } }
  | .enc => { s with transient := { s.transient with txAcc := v } }

/-- `CS_CLEAR` (R101). -/
def csClear (acc : AccSel) (s : State) : State := setAcc acc 0 s

/-- `CS_ADD(v)` (R102). -/
def csAdd (acc : AccSel) (v : Byte) (s : State) : State := setAcc acc (addByte (s.acc acc) v) s

/-- `CS_FINAL` (R103): the value returned; the accumulator is not changed. -/
def csFinal (acc : AccSel) (s : State) : Byte := complement (s.acc acc)

/-- `FID_NEXT` (R121). -/
def fidNext (s : State) : State := { s with enc := { s.enc with frameId := frameIdNext s.enc.frameId } }

/-! ### The written stream (R39, R120) -/

/-- `out(v)`. -/
def out (v : Byte) (s : State) : State := { s with written := s.written ++ [.byte v] }

/-- `outN(list)`. -/
def outN (l : List Byte) (s : State) : State := { s with written := s.written ++ [.bulk l] }

/-- Write an escape pair: the marker and the XORed byte are two transactions (R120). -/
def outPair (v : Byte) (s : State) : State := out (escXor v) (out ESC s)

/-- `ESC_EMIT(v)` (R120). -/
def escEmit (v : Byte) (s : State) : State := if isReserved v then outPair v s else out v s

/-- `ESC_EMIT` of each byte in order. -/
def escEmitAll : List Byte → State → State
  | [], s => s
  | v :: rest, s => escEmitAll rest (escEmit v s)

/-- Write a logical frame with byte stuffing: its first byte raw, the others through `ESC_EMIT` (R122). -/
def outStuffed : List Byte → State → State
  | [], s => s
  | d :: rest, s => escEmitAll rest (out d s)

/-- The streaming loop of R125: each frame-data byte is added to `txAcc` before stuffing, then emitted. -/
def streamData : List Byte → State → State
  | [], s => s
  | v :: rest, s => streamData rest (escEmit v (csAdd .enc v s))

/-- The end of a send command: `txAcc` and `txBuf` become undefined, that is free values (R21, R22, R26; log 4). -/
def endCommand (s : State) : State :=
  { s with
    transient := { txAcc := Config.freeTxAcc s.freeCount, txBuf := Config.freeTxBuf s.freeCount }
    freeCount := s.freeCount + 1 }

/-- Assemble a frame in `txBuf` (R22). -/
def assemble (frame : List Byte) (s : State) : State :=
  { s with transient := { s.transient with txBuf := frame } }

/-! ### The decoder's transitions -/

/-- The decoder part of `RX_DELIM` and of `RESET` (R76, R161): every register cleared, every buffer byte 0x00. -/
def clearDecoder (s : State) : State := csClear .dec { s with dec := { Dec.fresh with
  checksumAccumulator := s.dec.checksumAccumulator } }

/-- `declaredSize <- L + 3` (R53), 17 bits, exact. -/
def declaredSizeOf (length : Nat) : Size := BitVec.ofNat 17 (length + 3)

/-- The part `RX_LENLO` does whether it accepts or rejects (R79, R80). -/
def takeLengthLow (b : Byte) (s : State) : State :=
  { s with dec := { s.dec with offset := 2, declaredSize := declaredSizeOf (declaredLength s.dec.lenHigh b) } }

/-- Synthesize the three header bytes (R79, R31). -/
def storeHeader (b : Byte) (s : State) : Result :=
  andThen (storeByte 0 DELIM s) fun s =>
  andThen (storeByte 1 s.dec.lenHigh s) fun s =>
  storeByte 2 b s

/-- `offset <- offset + 1` (R83, R84). -/
def advance (s : State) : State := { s with dec := { s.dec with offset := s.dec.offset + 1 } }

/-- `ignoring <- 1` (R80, R84). -/
def ignoreRest (s : State) : State := { s with dec := { s.dec with ignoring := true } }

/-- `escapePending <- b` (R81, R82). -/
def setEscape (b : Bool) (s : State) : State := { s with dec := { s.dec with escapePending := b } }

/-- `RX_DATA` (R83): store at the new offset, add to the running sum. -/
def takeData (v : Byte) (s : State) : Result :=
  andThen (storeByte (s.dec.offset.toNat + 1) v s) fun s => .next (csAdd .dec v (advance s))

/-- `RX_CSUM` (R84): store at `declaredSize`, end the frame, and raise `frame_ready` if the byte is the expected one. -/
def takeChecksum (v : Byte) (s : State) : Result :=
  andThen (storeByte s.dec.declaredSize.toNat v s) fun s =>
    if checksumMatches (s.acc .dec) v then
      .next (raiseFrameReady s.dec.declaredSize (ignoreRest (advance s)))
    else .next (label .csumMismatch (ignoreRest (advance s)))

/-- The end of R75: a structural byte is frame data or the checksum. -/
def takeStructural (v : Byte) (s : State) : Result :=
  if beforeChecksum s.dec then takeData v s else takeChecksum v s

/-! ### Placing an input for the next step -/

/-- The registers an input is read in: for `RX_ESC` a frame with both length bytes consumed (the empty one, R79), for
any other received byte the fresh decoder. -/
def placeDecoder (e : Event) : Dec :=
  if e = .rx ESC then { Dec.fresh with offset := 2, declaredSize := 3, buffer := [(0, DELIM)] } else Dec.fresh

/-- Present an input as the next one, in a state that reads it as `decodeTableWord` does: the state's own registers where
they already do, else the registers of `placeDecoder` and `fatal = 0`. -/
def placeInput (e : Event) (s : State) : State :=
  let here := { s with inputs := e :: s.inputs }
  if s.fatal = false ∧ (decode s.rxContext e).toOption = (decode (tableContext e) e).toOption then here
  else { here with dec := placeDecoder e, fatal := false }

end Sys2Proof.Machine
end

