-- ==== Sys2Proof/Machine/Checksum.lean ====
section
/-! DEFINITION. Machine/Checksum.lean: the meanings of the checksum engine's operations run alone (R100 to R103); what an
operation returns is kept in `returned` (log 6). -/

namespace Sys2Proof.Machine

/-- `CHECKSUM(buf, length)` (R100).  A byte the sequence does not have is a free value (log 18), and using one advances
`freeCount`. -/
def execChecksum (buf : CsSource) (length : Nat) (s : State) : Result :=
  unlessHalted s <| .next
    { s with
      returned := some (checksumOf (s.checksumByte buf) length)
      freeCount := if s.readsPastEnd buf length then s.freeCount + 1 else s.freeCount }

/-- `CS_CLEAR` (R101). -/
def execCsClear (acc : AccSel) (s : State) : Result := unlessHalted s (.next (csClear acc s))

/-- `CS_ADD(v)` (R102). -/
def execCsAdd (acc : AccSel) (v : Byte) (s : State) : Result := unlessHalted s (.next (csAdd acc v s))

/-- `CS_FINAL` (R103). -/
def execCsFinal (acc : AccSel) (s : State) : Result :=
  unlessHalted s (.next { s with returned := some (csFinal acc s) })

end Sys2Proof.Machine
end

