-- ==== Sys2Proof/Machine/Receive.lean ====
section
/-! DEFINITION. Machine/Receive.lean: the meanings of the received-byte operations (R75 to R84, R149).  A meaning is its
rule's pseudocode in every state with `fatal = 0`; which of them a byte selects is `decodeRx`'s (R61; log 7). -/

namespace Sys2Proof.Machine

/-- `RX_HALTED` (R149): changes nothing. -/
def execRxHalted (_b : Byte) (s : State) : Result := .next s

/-- `RX_DELIM` (R76); cutting a frame short is E4 (R140). -/
def execRxDelim (s : State) : Result :=
  unlessHalted s (.next (clearDecoder (if frameInProgress s.dec then label .frameAborted s else s)))

/-- `RX_IGNORED` (R77): changes nothing. -/
def execRxIgnored (_b : Byte) (s : State) : Result := .next s

/-- `RX_LENHI` (R78). -/
def execRxLenHi (b : Byte) (s : State) : Result :=
  unlessHalted s (.next { s with dec := { s.dec with offset := 1, lenHigh := b } })

/-- `RX_LENLO`, accepting (R79). -/
def execRxLenLo (b : Byte) (s : State) : Result := unlessHalted s (storeHeader b (takeLengthLow b s))

/-- `RX_LENLO`, rejecting (R80); E3 (R140, R146). -/
def execRxLenLoReject (b : Byte) (s : State) : Result :=
  unlessHalted s (.next (label .rxOversize (ignoreRest (takeLengthLow b s))))

/-- `RX_UNESC` (R82): then `RX_DATA` or `RX_CSUM` with the unescaped byte. -/
def execRxUnesc (b : Byte) (s : State) : Result := unlessHalted s (takeStructural (escXor b) (setEscape false s))

/-- `RX_ESC` (R81). -/
def execRxEsc (s : State) : Result := unlessHalted s (.next (setEscape true s))

/-- `RX_DATA` (R83). -/
def execRxData (v : Byte) (s : State) : Result := unlessHalted s (takeData v s)

/-- `RX_CSUM` (R84). -/
def execRxCsum (v : Byte) (s : State) : Result := unlessHalted s (takeChecksum v s)

end Sys2Proof.Machine
end

