-- ==== Sys2Proof/Machine/Reset.lean ====
section
/-! DEFINITION. Machine/Reset.lean: the meaning of `RESET` (R160 to R162). -/

namespace Sys2Proof.Machine

/-- `RESET` (R160): the decoder as after a delimiter, `frameId <- 1`, `fatal <- 0`; it touches neither the parameters, nor
the registered callback, nor the bytes already written (R162).  That `txAcc` and `txBuf`, undefined after reset (R26), keep
the values they had is the model's own: DESIGN CHOICE, log 4. -/
def execReset (s : State) : Result :=
  .next { clearDecoder s with enc := { frameId := FRAME_ID_RESET }, fatal := false }

end Sys2Proof.Machine
end

