-- ==== Sys2Proof/Machine/Send.lean ====
section
/-! DEFINITION. Machine/Send.lean: the meanings of the send commands (R63, R122 to R126, R130). -/

namespace Sys2Proof.Machine

/-- `SEND_AT` (R122), or E7 when the parameters do not fit (R123).  The frame carries the counter held before
`FID_NEXT`. -/
def execSendAt (cmd0 cmd1 : Byte) (param : List Byte) (s : State) : Result :=
  unlessHalted s <|
    if paramFits s.cfg param then
      let frame := logicalFrame (atData s.cfg s.enc.frameId cmd0 cmd1 param)
      let s := csClear .enc (assemble frame s)
      let s := if s.cfg.atEscape then outStuffed frame s else outN frame s
      .next (endCommand (fidNext s))
    else .next (raiseFatal .txParamOversize s)

/-- `SEND_DATA_RAW` (R124), or E8 when the payload is too long (R126): one bulk write, no stuffing. -/
def execSendDataRaw (dest : Address) (payload : List Byte) (s : State) : Result :=
  unlessHalted s <|
    if payloadFits s.cfg payload then
      let frame := logicalFrame (txData s.cfg dest payload)
      .next (endCommand (outN frame (csClear .enc (assemble frame s))))
    else .next (raiseFatal .txPayloadOversize s)

/-- `SEND_DATA_ESC` (R125), or E8 when the payload is too long (R126): streamed byte by byte, the checksum accumulated on
the values before stuffing. -/
def execSendDataEsc (dest : Address) (payload : List Byte) (s : State) : Result :=
  unlessHalted s <|
    if payloadFits s.cfg payload then
      let data := txData s.cfg dest payload
      let s := out DELIM s
      let s := escEmit (lengthHighByte data.length) s
      let s := escEmit (lengthLowByte data.length) s
      let s := streamData data (csClear .enc s)
      .next (endCommand (escEmit (csFinal .enc s) s))
    else .next (raiseFatal .txPayloadOversize s)

/-- `CMD_NONE` (R63): no command, no state change. -/
def execCmdNone (s : State) : Result := .next s

end Sys2Proof.Machine
end

