-- ==== Sys2Proof/Machine/Transmit.lean ====
section
/-! DEFINITION. Machine/Transmit.lean: the meanings of the transmit stage and of the encoders' shared primitives (R62, R120,
R121). -/

namespace Sys2Proof.Machine

/-- `TX_RAW` (R62): the byte as it is. -/
def execTxRaw (v : Byte) (s : State) : Result := unlessHalted s (.next (out v s))

/-- `TX_ESCAPED` (R62, R120): the marker, then the byte XORed with the mask. -/
def execTxEscaped (v : Byte) (s : State) : Result := unlessHalted s (.next (outPair v s))

/-- `TX_PLAIN` (R62, R120): the byte as it is. -/
def execTxPlain (v : Byte) (s : State) : Result := unlessHalted s (.next (out v s))

/-- `ESC_EMIT(v)` (R120). -/
def execEscEmit (v : Byte) (s : State) : Result := unlessHalted s (.next (escEmit v s))

/-- `FID_NEXT` (R121). -/
def execFidNext (s : State) : Result := unlessHalted s (.next (fidNext s))

end Sys2Proof.Machine
end

