-- ==== Sys2Proof/Machine/Dispatch.lean ====
section
/-! DEFINITION. Machine/Dispatch.lean: one arm per operation. -/

namespace Sys2Proof.Machine

/-- The meaning of each operation. -/
def exec (i : Instr) (s : State) : Host.Outcome State Fault Refusal :=
  match i with
  -- received bytes (R75 to R84, R149)
  | .rxHalted b => Sys2Proof.Machine.execRxHalted b s
  | .rxDelim => Sys2Proof.Machine.execRxDelim s
  | .rxIgnored b => Sys2Proof.Machine.execRxIgnored b s
  | .rxLenHi b => Sys2Proof.Machine.execRxLenHi b s
  | .rxLenLo b => Sys2Proof.Machine.execRxLenLo b s
  | .rxLenLoReject b => Sys2Proof.Machine.execRxLenLoReject b s
  | .rxUnesc b => Sys2Proof.Machine.execRxUnesc b s
  | .rxEsc => Sys2Proof.Machine.execRxEsc s
  | .rxData v => Sys2Proof.Machine.execRxData v s
  | .rxCsum v => Sys2Proof.Machine.execRxCsum v s
  -- the transmit stage (R62, R120)
  | .txRaw v => Sys2Proof.Machine.execTxRaw v s
  | .txEscaped v => Sys2Proof.Machine.execTxEscaped v s
  | .txPlain v => Sys2Proof.Machine.execTxPlain v s
  -- send commands (R63, R122 to R126)
  | .sendAt cmd0 cmd1 param => Sys2Proof.Machine.execSendAt cmd0 cmd1 param s
  | .sendDataRaw dest payload => Sys2Proof.Machine.execSendDataRaw dest payload s
  | .sendDataEsc dest payload => Sys2Proof.Machine.execSendDataEsc dest payload s
  | .cmdNone => Sys2Proof.Machine.execCmdNone s
  -- the checksum engine (R100 to R103)
  | .checksum buf length => Sys2Proof.Machine.execChecksum buf length s
  | .csClear acc => Sys2Proof.Machine.execCsClear acc s
  | .csAdd acc v => Sys2Proof.Machine.execCsAdd acc v s
  | .csFinal acc => Sys2Proof.Machine.execCsFinal acc s
  -- encoder primitives (R120, R121)
  | .escEmit v => Sys2Proof.Machine.execEscEmit v s
  | .fidNext => Sys2Proof.Machine.execFidNext s
  -- reset (R160)
  | .reset => Sys2Proof.Machine.execReset s

end Sys2Proof.Machine
end

