-- ==== Sys2Proof/Machine/Step.lean ====
section
/-! DEFINITION. Machine/Step.lean: one step: take the next input, decode it, run the operation. -/

namespace Sys2Proof.Machine

/-- Run one input: a registration is the dispatcher's (R117), any other input is decoded and executed. -/
def runEvent (e : Event) (s : State) : Host.Outcome State Fault Refusal :=
  match e with
  | .register h => .next (registerHandler h s)
  | e =>
    match decode s.rxContext e with
    | .ok i => exec i s
    | .error r => .refused (.undecodable r)

/-- One step (R7).  With no input presented nothing changes (R37, R85). -/
def step (s : State) : Host.Outcome State Fault Refusal :=
  match s.inputs with
  | [] => .next s
  | e :: rest => runEvent e { s with inputs := rest }

/-- The state with a table word's input as the next one to be presented (log 8). -/
def State.withFetchWord (s : State) (nbits w : Nat) : State :=
  match tableEvent nbits w with
  | none => s
  | some e => placeInput e s

end Sys2Proof.Machine
end

