-- ==== Sys2Proof/Safety.lean ====
section
/-! DEFINITION. Safety.lean: the terms claims use: the decoder's named states (R18), the invariants between steps (R19), a
safe state (R149), and feeding received bytes. -/

namespace Sys2Proof.Machine

/-- A safe state: `fatal = 1` is the spec's fault state (R149). -/
abbrev State.Safe (s : State) : Prop := s.fatal = false

/-- The names of the decoder's states (R18). -/
inductive DecName where
  | start | lengthHigh | lengthLow | payload | done | rejected
  deriving DecidableEq, Repr

/-- The name of a decoder state, by the predicates of R18; no other combination is reachable from reset. -/
def Dec.name? (d : Dec) : Option DecName :=
  if d.ignoring then
    if d.offset = 2 then some .rejected
    else if d.offset = d.declaredSize then some .done
    else none
  else if d.offset = 0 then some .start
  else if d.offset = 1 then some .lengthHigh
  else if d.offset = 2 then some .lengthLow
  else if d.offset.toNat < d.declaredSize.toNat then some .payload
  else none

/-- The sum modulo 256 of the frame data in the buffer at indices 3 to `last` (R14, R19 item 3). -/
def Dec.dataSum (d : Dec) (last : Nat) : Byte := sumBytes d.buffer.read HDR (last + 1 - HDR)

/-- What the buffer holds of a frame with both length bytes consumed (R19 item 3, R31). -/
structure Dec.Header (d : Dec) : Prop where
  delimiter : d.buffer.read 0 = DELIM
  length : declaredLength (d.buffer.read 1) (d.buffer.read 2) + 3 = d.declaredSize.toNat

/-- The invariants of the decoder between two steps (R19, item by item, with R44 and, for `Done`, R143). -/
structure Dec.Inv (cfg : Config) (d : Dec) : Prop where
  /-- The buffer has the canonical form. -/
  memory : Memory.wf d.buffer = true
  /-- Item 1. -/
  fresh : d.offset.toNat ≤ 1 → d.declaredSize = 0 ∧ d.checksumAccumulator = 0 ∧ d.escapePending = false ∧
    d.ignoring = false ∧ ∀ i, d.buffer.read i = 0
  /-- Item 2. -/
  sized : 2 ≤ d.offset.toNat → 3 ≤ d.declaredSize.toNat ∧ d.declaredSize.toNat ≤ 65538
  /-- Item 3. -/
  live : d.ignoring = false → 2 ≤ d.offset.toNat → d.declaredSize.toNat + 1 ≤ cfg.bufCap ∧
    d.offset.toNat < d.declaredSize.toNat ∧ d.Header ∧ d.checksumAccumulator = d.dataSum d.offset.toNat
  /-- Item 4. -/
  escape : d.escapePending = true →
    d.ignoring = false ∧ 2 ≤ d.offset.toNat ∧ d.offset.toNat < d.declaredSize.toNat
  /-- Item 5: `Rejected` (a declared length the buffer cannot hold) or `Done`. -/
  ignored : d.ignoring = true → d.escapePending = false ∧
    ((d.offset.toNat = 2 ∧ cfg.bufCap < d.declaredSize.toNat + 1) ∨
     (d.offset = d.declaredSize ∧ 3 ≤ d.declaredSize.toNat ∧ d.declaredSize.toNat + 1 ≤ cfg.bufCap ∧ d.Header ∧
      d.checksumAccumulator = d.dataSum (d.declaredSize.toNat - 1)))
  /-- Item 6. -/
  above : ∀ i, max d.offset.toNat 2 < i → d.buffer.read i = 0
  /-- Item 6, `Rejected`. -/
  rejected : d.ignoring = true → d.offset.toNat = 2 → ∀ i, d.buffer.read i = 0

/-- The invariant of the whole machine: the parameters meet R6, the decoder meets R19, the counter never holds 255
(R20), and the inputs still to come are ones an agent of R7 can present. -/
structure State.Inv (s : State) : Prop where
  config : s.cfg.Valid
  decoder : s.dec.Inv s.cfg
  counter : s.enc.frameId.toNat ≤ 254
  inputs : ∀ e ∈ s.inputs, e.external = true

/-- Feed received bytes, one step each (R37), stopping at the first fault or refusal. -/
def feed : List Byte → State → Result
  | [], s => .next s
  | b :: rest, s => andThen (step { s with inputs := .rx b :: s.inputs }) (feed rest)

/-- The bytes the transport has seen (R39): the concatenation of the write transactions. -/
def State.writtenBytes (s : State) : List Byte := s.written.flatMap WriteTxn.bytes

/-- The wire bytes of a logical byte (R54, R62): an escape pair if it is reserved, else itself. -/
def stuff (v : Byte) : List Byte := if isReserved v then [ESC, escXor v] else [v]

/-- The wire frame of a logical frame (R50): the delimiter raw, every byte after it stuffed. -/
def wireFrame : List Byte → List Byte
  | [] => []
  | d :: rest => d :: rest.flatMap stuff

/-- A logical frame as R51 and R67 give it: the length is the count of the frame data, the checksum the complement of the
sum of the frame data modulo 256. -/
def specFrame (data : List Byte) : List Byte :=
  [0x7E, BitVec.ofNat 8 (data.length / 256), BitVec.ofNat 8 data.length] ++ data ++
    [0xFF - BitVec.ofNat 8 (data.map BitVec.toNat).sum]

/-- The transition table of R86: from a named state, on a received byte, with `fatal = 0`. -/
def nextName (cfg : Config) (d : Dec) (b : Byte) : DecName → DecName
  | .start => if b = 0x7E then .start else .lengthHigh
  | .lengthHigh =>
    if b = 0x7E then .start else if d.lenHigh.toNat * 256 + b.toNat + 4 ≤ cfg.bufCap then .lengthLow else .rejected
  | .lengthLow =>
    if b = 0x7E then .start else if d.escapePending = false ∧ b = 0x7D then .lengthLow
    else if d.offset.toNat + 1 < d.declaredSize.toNat then .payload else .done
  | .payload =>
    if b = 0x7E then .start else if d.escapePending = false ∧ b = 0x7D then .payload
    else if d.offset.toNat + 1 < d.declaredSize.toNat then .payload else .done
  | .done => if b = 0x7E then .start else .done
  | .rejected => if b = 0x7E then .start else .rejected

/-- The pending escape after a received byte (R86): set by a marker in `LengthLow` or `Payload` only. -/
def nextEscape (d : Dec) (b : Byte) : DecName → Bool
  | .lengthLow | .payload => !d.escapePending && b == 0x7D
  | .start | .lengthHigh | .done | .rejected => false

/-- Run one operation `k` times. -/
def repeatOp (i : Instr) : Nat → State → Result
  | 0, s => .next s
  | k + 1, s => andThen (exec i s) (repeatOp i k)

end Sys2Proof.Machine
end

