-- ==== Sys2Proof/Certificates/Slice0/Obligations.lean ====
section
/-! DEFINITION. Obligations.lean: the statements for the provers.  Whole-state equations give an operation's effect, its
frame and its completion at once; the buffer is compared byte by byte. -/

open Sys2Proof Sys2Proof.Machine

/-! ### Decode (R57, R61 to R63) -/

/-- Every well-formed operation, with every operand value, is read back from its encoding in every context that meets
its row's state condition.  The contexts carry the spec's own priorities 0 and 2 (R61, D13, D6), the command select is
its own (D18), and the inputs of the rows without an external encoding are the model's own (log 9). -/
def Obligations.DecodeOfEncodeIsIdentity : Prop :=
  ∀ (c : RxContext) (i : Instr), i.wf = true → i.selectedIn c = true → decode c (encode i) = .ok i

/-- R61, "exhaustive", and R57: in every context R19 allows, a received byte selects one operation, namely the one whose
row it meets (the spec's own priorities 0 and 2 included). -/
def Obligations.ReceivedByteSelectsExactlyItsRow : Prop :=
  ∀ (c : RxContext) (b : Byte) (i : Instr),
    (c.ignoring = false → 2 ≤ c.offset.toNat → c.offset.toNat < c.declaredSize.toNat) →
    (decode c (.rx b) = .ok i ↔ i.wf = true ∧ i.selectedIn c = true ∧ encode i = .rx b)

/-- R63: the command select (the spec's own encoding, D18).  Which lines of the port a command reads, one shared byte list
for `param` and `payload` among them, is the model's own (log 15, DESIGN CHOICE). -/
def Obligations.CommandSelectDecodes : Prop :=
  ∀ (c : RxContext) (p : CmdPort),
    (p.op = 0b00 → decode c (.cmd p) = .ok .cmdNone) ∧
    (p.op = 0b01 → decode c (.cmd p) = .ok (.sendAt p.cmd0 p.cmd1 p.bytes)) ∧
    (p.op = 0b10 → decode c (.cmd p) = .ok (.sendDataRaw p.dest p.bytes)) ∧
    (p.op = 0b11 → decode c (.cmd p) = .ok (.sendDataEsc p.dest p.bytes))

/-- R62: the transmit stage of an encoder's logical byte; presenting such a byte alone is the model's own (log 9). -/
def Obligations.TransmitByteDecodes : Prop :=
  ∀ (c : RxContext) (v : Byte),
    (∀ index, decode c (.tx true index v) = .ok (.txRaw v)) ∧
    decode c (.tx false 0 0x7E) = .ok (.txRaw 0x7E) ∧
    ∀ index, 1 ≤ index →
      ((v = 0x11 ∨ v = 0x13 ∨ v = 0x7D ∨ v = 0x7E) → decode c (.tx false index v) = .ok (.txEscaped v)) ∧
      (¬(v = 0x11 ∨ v = 0x13 ∨ v = 0x7D ∨ v = 0x7E) → decode c (.tx false index v) = .ok (.txPlain v))

/-- The words of spec/opcode_table.json whose bits are fixed, as the model reads them (its own choice where rows share a
word: log 8), and received bytes in the contexts of V-SRC-1. -/
def Obligations.TableWordsDecode : Prop :=
  decodeTableWord 8 0x7E = some .rxDelim ∧
  decodeTableWord 8 0x7D = some .rxEsc ∧
  decodeTableWord 8 0x00 = some .cmdNone ∧
  decodeTableWord 8 0x01 = some (.sendAt 0 0 []) ∧
  decodeTableWord 8 0x02 = some (.sendDataRaw 0 []) ∧
  decodeTableWord 8 0x03 = some (.sendDataEsc 0 []) ∧
  decodeTableWord 32 0x11137D7E = some (.txEscaped 0x7E) ∧
  decode { startContext with offset := 1, bufCap := 32 } (.rx 0x02) = .ok (.rxLenLo 0x02) ∧
  decode { startContext with offset := 2, declaredSize := 5, bufCap := 32 } (.rx 0x88) = .ok (.rxData 0x88) ∧
  decode { startContext with offset := 4, declaredSize := 5, bufCap := 32 } (.rx 0x76) = .ok (.rxCsum 0x76)

/-! ### The step (R7, R37, R85, R117) -/

/-- A step runs the operation its next input decodes to, with that input taken off (R7; the inputs as a list are the
model's own, log 1). -/
def Obligations.StepRunsTheDecodedOperation : Prop :=
  ∀ (s : State) (e : Event) (rest : List Event) (i : Instr),
    s.inputs = e :: rest → decode s.rxContext e = .ok i → step s = exec i { s with inputs := rest }

/-- R85: with no input presented a step changes nothing; a registration changes the callback slot alone (R117; the
inputs as a list are the model's own, log 1, and the dispatcher stands outside the block, log 10). -/
def Obligations.StepWithoutOperation : Prop :=
  (∀ s : State, s.inputs = [] → step s = .next s) ∧
  (∀ (s : State) (h : Nat) (rest : List Event), s.inputs = .register h :: rest →
    step s = .next { s with inputs := rest, handler := some h })

/-! ### The decoder (R76 to R84) -/

/-- R76 (`lenHigh` and `ignoring` are cleared by the spec's own D3 and D6): the decoder is cleared, and nothing else
changes but the label of a frame cut short (R140 E4; the label is the model's, log 5). -/
def Obligations.RxDelimClearsTheDecoder : Prop :=
  ∀ s : State, s.fatal = false → ∃ t, exec .rxDelim s = .next t ∧
    t.dec.offset = 0 ∧ t.dec.declaredSize = 0 ∧ t.dec.lenHigh = 0 ∧ t.dec.checksumAccumulator = 0 ∧
    t.dec.escapePending = false ∧ t.dec.ignoring = false ∧ (∀ a, t.dec.buffer.read a = 0x00) ∧
    t = { s with dec := t.dec, labels := t.labels } ∧
    t.labels = s.labels ++ if s.dec.ignoring = false ∧ s.dec.offset ≠ 0 then [.frameAborted] else []

/-- R77, R149, R63: `RX_IGNORED`, `RX_HALTED` and `CMD_NONE` change nothing, in any state (the spec's own D6, D13, D18). -/
def Obligations.IgnoredHaltedAndNoneChangeNothing : Prop :=
  ∀ (s : State) (b : Byte),
    exec (.rxIgnored b) s = .next s ∧ exec (.rxHalted b) s = .next s ∧ exec .cmdNone s = .next s

/-- R78: the length-high byte is stashed and nothing else changes (the register `lenHigh` is the spec's own, D3). -/
def Obligations.RxLenHiStashesTheByte : Prop :=
  ∀ (s : State) (b : Byte), s.fatal = false →
    exec (.rxLenHi b) s = .next { s with dec := { s.dec with offset := 1, lenHigh := b } }

/-- R79: the length, exact in 17 bits (the spec's own D4), and the three header bytes (`lenHigh`: D3). -/
def Obligations.RxLenLoAcceptsAFrameThatFits : Prop :=
  ∀ (s : State) (b : Byte), s.fatal = false → Memory.wf s.dec.buffer →
    s.dec.lenHigh.toNat * 256 + b.toNat + 4 ≤ s.cfg.bufCap →
    ∃ n m, exec (.rxLenLo b) s =
        .next { s with dec := { s.dec with offset := 2, declaredSize := n, buffer := m } } ∧
      n.toNat = s.dec.lenHigh.toNat * 256 + b.toNat + 3 ∧
      ∀ a, Memory.read m a =
        if a = 0 then 0x7E else if a = 1 then s.dec.lenHigh else if a = 2 then b else s.dec.buffer.read a

/-- R80 (the spec's own D7): the rest of the frame is ignored, the buffer is not written, nothing is raised but the label
E3 of R140 (the model's, log 5). -/
def Obligations.RxLenLoRejectsAnOversizeFrame : Prop :=
  ∀ (s : State) (b : Byte), s.fatal = false →
    ∃ n, exec (.rxLenLoReject b) s =
        .next { s with
          dec := { s.dec with offset := 2, declaredSize := n, ignoring := true }
          labels := s.labels ++ [.rxOversize] } ∧
      n.toNat = s.dec.lenHigh.toNat * 256 + b.toNat + 3

/-- R81: the marker sets `escapePending`; nothing is stored, `offset` and the sum are unchanged. -/
def Obligations.RxEscSetsThePendingEscape : Prop :=
  ∀ s : State, s.fatal = false →
    exec .rxEsc s = .next { s with dec := { s.dec with escapePending := true } }

/-- R82: clear the flag, unescape, and continue as `RX_DATA` or `RX_CSUM`. -/
def Obligations.RxUnescContinuesUnescaped : Prop :=
  ∀ (s : State) (b : Byte), s.fatal = false →
    exec (.rxUnesc b) s =
      exec (if s.dec.offset.toNat + 1 < s.dec.declaredSize.toNat then .rxData (b ^^^ 0x20) else .rxCsum (b ^^^ 0x20))
        { s with dec := { s.dec with escapePending := false } }

/-- R82 with R83: an escaped data byte stores its unescaped value and nothing else (that R83's index is the new offset
is DEDUCED, log 17). -/
def Obligations.RxUnescStoresTheUnescapedByte : Prop :=
  ∀ (s : State) (b : Byte), s.fatal = false → Memory.wf s.dec.buffer →
    s.dec.offset.toNat + 1 < s.dec.declaredSize.toNat → s.dec.offset.toNat + 1 < s.cfg.bufCap →
    ∃ m n, exec (.rxUnesc b) s = .next { s with dec := { s.dec with
        escapePending := false, offset := n, buffer := m,
        checksumAccumulator := BitVec.ofNat 8 (s.dec.checksumAccumulator.toNat + (b ^^^ 0x20).toNat) } } ∧
      n.toNat = s.dec.offset.toNat + 1 ∧
      ∀ a, Memory.read m a = if a = s.dec.offset.toNat + 1 then b ^^^ 0x20 else s.dec.buffer.read a

/-- R83: one byte stored at the new offset and added to the running sum modulo 256 (that R83's index is the new offset
is DEDUCED, log 17). -/
def Obligations.RxDataStoresAndAccumulates : Prop :=
  ∀ (s : State) (v : Byte), s.fatal = false → Memory.wf s.dec.buffer →
    s.dec.offset.toNat + 1 < s.dec.declaredSize.toNat → s.dec.offset.toNat + 1 < s.cfg.bufCap →
    ∃ m n, exec (.rxData v) s = .next { s with dec := { s.dec with
        offset := n, buffer := m,
        checksumAccumulator := BitVec.ofNat 8 (s.dec.checksumAccumulator.toNat + v.toNat) } } ∧
      n.toNat = s.dec.offset.toNat + 1 ∧
      ∀ a, Memory.read m a = if a = s.dec.offset.toNat + 1 then v else s.dec.buffer.read a

/-- R84, R88 (the comparison after unescaping is the spec's own D9, `ignoring` its D6): on a match `frame_ready` is
raised once, and the consumer alone (log 10) may add a callback or a label (log 5). -/
def Obligations.RxCsumMatchRaisesFrameReady : Prop :=
  ∀ (s : State) (v : Byte), s.fatal = false → Memory.wf s.dec.buffer →
    s.dec.offset.toNat + 1 = s.dec.declaredSize.toNat → s.dec.declaredSize.toNat < s.cfg.bufCap →
    v = 0xFF - s.dec.checksumAccumulator →
    ∃ m cs ls, exec (.rxCsum v) s = .next { s with
        dec := { s.dec with offset := s.dec.declaredSize, buffer := m, ignoring := true }
        frameReady := s.frameReady ++ [s.dec.declaredSize]
        callbacks := s.callbacks ++ cs
        labels := s.labels ++ ls } ∧
      ∀ a, Memory.read m a = if a = s.dec.declaredSize.toNat then v else s.dec.buffer.read a

/-- R84, R145 (D9, D6 as above): on a mismatch nothing is raised but the label E2 of
R140 (the model's, log 5), and the bad byte is still stored. -/
def Obligations.RxCsumMismatchIsSilent : Prop :=
  ∀ (s : State) (v : Byte), s.fatal = false → Memory.wf s.dec.buffer →
    s.dec.offset.toNat + 1 = s.dec.declaredSize.toNat → s.dec.declaredSize.toNat < s.cfg.bufCap →
    v ≠ 0xFF - s.dec.checksumAccumulator →
    ∃ m, exec (.rxCsum v) s = .next { s with
        dec := { s.dec with offset := s.dec.declaredSize, buffer := m, ignoring := true }
        labels := s.labels ++ [.csumMismatch] } ∧
      ∀ a, Memory.read m a = if a = s.dec.declaredSize.toNat then v else s.dec.buffer.read a

/-! ### The checksum engine (R100 to R104) -/

/-- R100 over each source: the complement of the sum, modulo 256, of the bytes at indices 3 to `length - 1`, 0xFF for every
`length` of 3 or less (corner case a).  The model's own: where the result is kept (log 6, DESIGN CHOICE), and that the
operation completes with free bytes where the sequence has no byte at an index it reads (log 18, DESIGN CHOICE). -/
def Obligations.ChecksumIsTheComplementedSum : Prop :=
  ∀ (s : State) (buf : CsSource) (length : Nat), s.fatal = false →
    (length ≤ 3 → exec (.checksum buf length) s = .next { s with returned := some 0xFF }) ∧
    (length ≤ s.sourceSize buf → exec (.checksum buf length) s = .next { s with
      returned := some (0xFF - BitVec.ofNat 8 ((List.range' 3 (length - 3)).map fun i => (s.sourceByte buf i).toNat).sum) }) ∧
    (3 < length → s.sourceSize buf < length →
      ∃ free : Nat → Byte, exec (.checksum buf length) s = .next { s with
        returned := some (0xFF - BitVec.ofNat 8 ((List.range' 3 (length - 3)).map fun i =>
          (if i < s.sourceSize buf then s.sourceByte buf i else free i).toNat).sum)
        freeCount := s.freeCount + 1 })

/-- The model's own stops (log 11, DESIGN CHOICE; R44 gives such a store no meaning): a store at `BUF_CAP` or above, in
each operation that stores, and in no run. -/
def Obligations.IndicesThatDoNotExistFault : Prop :=
  ∀ (s : State) (v : Byte), s.fatal = false →
    (s.cfg.bufCap ≤ s.dec.offset.toNat + 1 →
      exec (.rxData v) s = .fault (.bufferIndexOutOfRange (s.dec.offset.toNat + 1))) ∧
    (s.cfg.bufCap ≤ s.dec.declaredSize.toNat →
      exec (.rxCsum v) s = .fault (.bufferIndexOutOfRange s.dec.declaredSize.toNat)) ∧
    (s.dec.offset.toNat + 1 < s.dec.declaredSize.toNat → s.cfg.bufCap ≤ s.dec.offset.toNat + 1 →
      exec (.rxUnesc v) s = .fault (.bufferIndexOutOfRange (s.dec.offset.toNat + 1))) ∧
    (s.dec.declaredSize.toNat ≤ s.dec.offset.toNat + 1 → s.cfg.bufCap ≤ s.dec.declaredSize.toNat →
      exec (.rxUnesc v) s = .fault (.bufferIndexOutOfRange s.dec.declaredSize.toNat)) ∧
    (s.cfg.bufCap ≤ 2 → exec (.rxLenLo v) s = .fault (.bufferIndexOutOfRange s.cfg.bufCap))

/-- R101 on either accumulator. -/
def Obligations.CsClearZeroesTheAccumulator : Prop :=
  ∀ s : State, s.fatal = false →
    exec (.csClear .dec) s = .next { s with dec := { s.dec with checksumAccumulator := 0 } } ∧
    exec (.csClear .enc) s = .next { s with transient := { s.transient with txAcc := 0 } }

/-- R102 on either accumulator: addition modulo 256. -/
def Obligations.CsAddAddsModulo256 : Prop :=
  ∀ (s : State) (v : Byte), s.fatal = false →
    exec (.csAdd .dec v) s = .next { s with dec := { s.dec with
      checksumAccumulator := BitVec.ofNat 8 ((s.dec.checksumAccumulator.toNat + v.toNat) % 256) } } ∧
    exec (.csAdd .enc v) s = .next { s with transient := { s.transient with
      txAcc := BitVec.ofNat 8 ((s.transient.txAcc.toNat + v.toNat) % 256) } }

/-- R103 on either accumulator: 0xFF minus it, without changing it.  Where the result is kept is the model's own
(log 6). -/
def Obligations.CsFinalReturnsTheComplement : Prop :=
  ∀ s : State, s.fatal = false →
    exec (.csFinal .dec) s =
      .next { s with returned := some (BitVec.ofNat 8 (0xFF - s.dec.checksumAccumulator.toNat)) } ∧
    exec (.csFinal .enc) s =
      .next { s with returned := some (BitVec.ofNat 8 (0xFF - s.transient.txAcc.toNat)) }

/-- R104 item 1: adding the bytes of the window one by one, in any order, and finishing gives the bulk function, for every
length within the sequence and for every empty window (R100 corner case a). -/
def Obligations.BulkChecksumEqualsIncremental : Prop :=
  ∀ (buf order : List Byte) (length : Nat), length ≤ max 3 buf.length → order.Perm ((buf.take length).drop 3) →
    complement (order.foldl addByte 0) = checksumOf (byteAt buf) length

/-- R104 item 2: a received byte matches exactly when it and the sum make 0xFF modulo 256. -/
def Obligations.ValidationIdentity : Prop :=
  ∀ acc v : Byte, checksumMatches acc v = true ↔ (acc.toNat + v.toNat) % 256 = 0xFF

/-! ### The encoders (R62, R120 to R130) -/

/-- R120: an escape pair in two one-byte writes for the four reserved values, else the byte. -/
def Obligations.EscEmitStuffsReservedBytes : Prop :=
  ∀ (s : State) (v : Byte), s.fatal = false →
    exec (.escEmit v) s = .next { s with written := s.written ++
      if v = 0x11 ∨ v = 0x13 ∨ v = 0x7D ∨ v = 0x7E then [.byte 0x7D, .byte (v ^^^ 0x20)] else [.byte v] }

/-- R62: the wire bytes of the three transmit stages; running one alone is the model's own (log 9). -/
def Obligations.TransmitStagesWriteTheirBytes : Prop :=
  ∀ (s : State) (v : Byte), s.fatal = false →
    exec (.txRaw v) s = .next { s with written := s.written ++ [.byte v] } ∧
    exec (.txEscaped v) s = .next { s with written := s.written ++ [.byte 0x7D, .byte (v ^^^ 0x20)] } ∧
    exec (.txPlain v) s = .next { s with written := s.written ++ [.byte v] }

/-- R121: modulo 255, not 256. -/
def Obligations.FidNextCountsModulo255 : Prop :=
  ∀ s : State, s.fatal = false →
    ∃ f : Byte, exec .fidNext s = .next { s with enc := { frameId := f } } ∧
      f.toNat = (s.enc.frameId.toNat + 1) % 255 ∧
      (s.enc.frameId = 254 → f = 0) ∧ (s.enc.frameId.toNat < 254 → f.toNat = s.enc.frameId.toNat + 1)

/-- R121, V-SRC-4: from the reset value, k command frames later the counter holds (k + 1) mod 255. -/
def Obligations.CommandFramesCycleTheFrameId : Prop :=
  ∀ (s : State) (cmd0 cmd1 : Byte) (k : Nat), s.cfg.Valid → s.fatal = false → s.enc.frameId = 1 →
    ∃ t, repeatOp (.sendAt cmd0 cmd1 []) k s = .next t ∧ t.enc.frameId.toNat = (k + 1) % 255

/-- R122, R59 with `AT_ESCAPE` (the spec's own D11, D22): the frame is written one byte a transaction, stuffed after the
delimiter; the counter advances after the frame is built; `txAcc` and `txBuf` end undefined (R21, R22; log 4). -/
def Obligations.SendAtWritesTheStuffedFrame : Prop :=
  ∀ (s : State) (cmd0 cmd1 : Byte) (param : List Byte), s.cfg.Valid → s.fatal = false →
    s.cfg.atEscape = true → 8 + param.length ≤ s.cfg.atBufCap →
    ∃ tr f, exec (.sendAt cmd0 cmd1 param) s = .next { s with
        written := s.written ++ (wireFrame ([0x7E, 0x00, BitVec.ofNat 8 (4 + param.length), s.cfg.ftAtCmd,
            s.enc.frameId, cmd0, cmd1] ++ param ++
          [0xFF - BitVec.ofNat 8
            (([s.cfg.ftAtCmd, s.enc.frameId, cmd0, cmd1] ++ param).map BitVec.toNat).sum])).map .byte
        enc := { frameId := f }, transient := tr, freeCount := s.freeCount + 1 } ∧
      f.toNat = (s.enc.frameId.toNat + 1) % 255

/-- R122, R130 without `AT_ESCAPE` (D11, D22): the same logical frame in one bulk write. -/
def Obligations.SendAtWritesTheBareFrame : Prop :=
  ∀ (s : State) (cmd0 cmd1 : Byte) (param : List Byte), s.cfg.Valid → s.fatal = false →
    s.cfg.atEscape = false → 8 + param.length ≤ s.cfg.atBufCap →
    ∃ tr f, exec (.sendAt cmd0 cmd1 param) s = .next { s with
        written := s.written ++ [.bulk ([0x7E, 0x00, BitVec.ofNat 8 (4 + param.length), s.cfg.ftAtCmd,
            s.enc.frameId, cmd0, cmd1] ++ param ++
          [0xFF - BitVec.ofNat 8
            (([s.cfg.ftAtCmd, s.enc.frameId, cmd0, cmd1] ++ param).map BitVec.toNat).sum])]
        enc := { frameId := f }, transient := tr, freeCount := s.freeCount + 1 } ∧
      f.toNat = (s.enc.frameId.toNat + 1) % 255

/-- R124, R60: the whole frame in one bulk write, nothing stuffed; `txAcc` and `txBuf` end undefined (log 4). -/
def Obligations.SendDataRawWritesTheFrameInBulk : Prop :=
  ∀ (s : State) (dest : Address) (payload : List Byte), s.fatal = false →
    payload.length ≤ s.cfg.txMaxN →
    ∃ tr, exec (.sendDataRaw dest payload) s = .next { s with
        written := s.written ++ [.bulk (specFrame (s.cfg.txPre ++
          [dest.extractLsb 63 56, dest.extractLsb 55 48, dest.extractLsb 47 40, dest.extractLsb 39 32,
           dest.extractLsb 31 24, dest.extractLsb 23 16, dest.extractLsb 15 8, dest.extractLsb 7 0] ++
          s.cfg.txPost ++ payload))]
        transient := tr, freeCount := s.freeCount + 1 }

/-- R125, R130 (the checksum is stuffed by the spec's own D10): the same logical frame, one byte a transaction, stuffed
after the delimiter; `txAcc` and `txBuf` end undefined (log 4). -/
def Obligations.SendDataEscStreamsTheStuffedFrame : Prop :=
  ∀ (s : State) (dest : Address) (payload : List Byte), s.fatal = false →
    payload.length ≤ s.cfg.txMaxN →
    ∃ tr, exec (.sendDataEsc dest payload) s = .next { s with
        written := s.written ++ (wireFrame (specFrame (s.cfg.txPre ++
          [dest.extractLsb 63 56, dest.extractLsb 55 48, dest.extractLsb 47 40, dest.extractLsb 39 32,
           dest.extractLsb 31 24, dest.extractLsb 23 16, dest.extractLsb 15 8, dest.extractLsb 7 0] ++
          s.cfg.txPost ++ payload))).map .byte
        transient := tr, freeCount := s.freeCount + 1 }

/-- R123, R126, R148 (the spec's own D13, D14): an oversize command sets `fatal`, writes nothing, and leaves all else but
the label, which is the model's own (log 5); that `txAcc` and `txBuf` keep their values is its choice too (log 4). -/
def Obligations.OversizeCommandsAreFatal : Prop :=
  ∀ (s : State) (cmd0 cmd1 : Byte) (dest : Address) (l : List Byte), s.fatal = false →
    (s.cfg.atBufCap < 8 + l.length →
      exec (.sendAt cmd0 cmd1 l) s = .next { s with fatal := true, labels := s.labels ++ [.txParamOversize] }) ∧
    (s.cfg.txMaxN < l.length →
      exec (.sendDataRaw dest l) s = .next { s with fatal := true, labels := s.labels ++ [.txPayloadOversize] } ∧
      exec (.sendDataEsc dest l) s = .next { s with fatal := true, labels := s.labels ++ [.txPayloadOversize] })

/-- R129: the two data encoders write the same bytes exactly when no logical byte after the delimiter is reserved. -/
def Obligations.RawEqualsEscapedIffNothingReserved : Prop :=
  ∀ (s t u : State) (dest : Address) (payload : List Byte), s.fatal = false → payload.length ≤ s.cfg.txMaxN →
    exec (.sendDataRaw dest payload) s = .next t → exec (.sendDataEsc dest payload) s = .next u →
    (t.writtenBytes = u.writtenBytes ↔
      ∀ v ∈ (specFrame (txData s.cfg dest payload)).tail, v ∉ RESERVED)

/-! ### Reset (R26, R160 to R162) -/

/-- R160, R162 (the spec's own D27, D8): every register of R26 at its reset value, and everything else
untouched.  That `txAcc` and `txBuf`, undefined after reset (R26), are among the untouched is the model's choice (log 4). -/
def Obligations.ResetRestoresTheResetValues : Prop :=
  ∀ s : State, ∃ t, exec .reset s = .next t ∧
    t.dec.offset = 0 ∧ t.dec.declaredSize = 0 ∧ t.dec.lenHigh = 0 ∧ t.dec.checksumAccumulator = 0 ∧
    t.dec.escapePending = false ∧ t.dec.ignoring = false ∧ (∀ a, t.dec.buffer.read a = 0x00) ∧
    t.enc.frameId = 1 ∧ t.fatal = false ∧
    t = { s with dec := t.dec, enc := t.enc, fatal := false }

/-- The reset state meets the invariant, whatever valid parameters the block has. -/
def Obligations.ResetStateMeetsTheInvariant : Prop :=
  ∀ cfg : Config, cfg.Valid → (State.resetWith cfg).Inv

/-! ### The whole machine -/

/-- R19, R20, R31, R44: every step keeps the invariants of the decoder, the counter and the parameters (R19 with the
spec's own `ignoring`, D6, D7; that the inputs to come are external ones is the model's, log 9). -/
def Obligations.EveryStepKeepsTheInvariant : Prop :=
  ∀ s t : State, s.Inv → step s = .next t → t.Inv

/-- R75 ("total"), R57, R44: from a state that meets the invariant a step always answers a next state.  Not so for the
bench inputs the invariant rules out (log 9). -/
def Obligations.EveryStepAnswersNext : Prop :=
  ∀ s : State, s.Inv → ∃ t, step s = .next t

/-- R18: in a state that meets the invariant the decoder is in one of the six named states. -/
def Obligations.DecoderIsAlwaysInANamedState : Prop :=
  ∀ s : State, s.Inv → ∃ n, s.dec.name? = some n

/-- R86: the transition table, with the pending escape. -/
def Obligations.ReceivedByteFollowsTheTransitionTable : Prop :=
  ∀ (s : State) (b : Byte) (rest : List Event) (n : DecName), s.Inv → s.fatal = false →
    s.inputs = .rx b :: rest → s.dec.name? = some n →
    ∃ t, step s = .next t ∧ t.dec.name? = some (nextName s.cfg s.dec b n) ∧
      t.dec.escapePending = nextEscape s.dec b n

/-- R149, R23 (the spec's own D13): while `fatal = 1` every operation but `RESET` changes nothing.  R149 speaks of received
bytes and send commands; that the checksum and encoder primitives and the transmit stages, run alone, halt too is the
model's reading of R23 (DEDUCED, log 7). -/
def Obligations.FatalHaltsEveryOperation : Prop :=
  ∀ (i : Instr) (s : State), i ≠ .reset → s.fatal = true → exec i s = .next s

/-- R149, R160 (D13): only a `RESET` input takes the block out of `fatal = 1`. -/
def Obligations.OnlyResetClearsFatal : Prop :=
  ∀ s t : State, s.fatal = true → step s = .next t → t.fatal = false → s.inputs.head? = some .reset

/-- R27: a received byte leaves the encoder and the written stream alone, a command leaves the decoder and its event
alone, and the parameters are nobody's to write (R163). -/
def Obligations.EachUnitWritesItsOwnState : Prop :=
  ∀ (i : Instr) (s t : State), exec i s = .next t →
    t.cfg = s.cfg ∧ t.handler = s.handler ∧ t.inputs = s.inputs ∧
    (∀ b, encode i = .rx b → t.enc = s.enc ∧ t.transient = s.transient ∧ t.written = s.written ∧
      t.fatal = s.fatal ∧ t.returned = s.returned ∧ t.freeCount = s.freeCount) ∧
    (∀ p, encode i = .cmd p → t.dec = s.dec ∧ t.frameReady = s.frameReady ∧ t.callbacks = s.callbacks ∧
      t.returned = s.returned)

/-- R27, R106: no decoder operation reads the encoder's state, and no encoder command the decoder's. -/
def Obligations.UnitsDoNotReadEachOther : Prop :=
  ∀ (i : Instr) (s t : State), exec i s = .next t →
    (∀ b e tr, encode i = .rx b →
      exec i { s with enc := e, transient := tr } = .next { t with enc := e, transient := tr }) ∧
    (∀ p d, encode i = .cmd p → exec i { s with dec := d } = .next { t with dec := d })

/-- R88: `frame_ready` is raised only by `RX_CSUM` (on its own or after `RX_UNESC`), once, with `n = declaredSize`. -/
def Obligations.OnlyTheChecksumByteRaisesFrameReady : Prop :=
  ∀ (i : Instr) (s t : State), exec i s = .next t → t.frameReady ≠ s.frameReady →
    (∃ b, i = .rxCsum b ∨ i = .rxUnesc b) ∧ t.frameReady = s.frameReady ++ [s.dec.declaredSize] ∧
    t.dec.ignoring = true

/-- R34, R39: what has been written and raised is never withdrawn or reordered. -/
def Obligations.OutputsAreOnlyAppended : Prop :=
  ∀ s t : State, step s = .next t →
    s.written <+: t.written ∧ s.frameReady <+: t.frameReady ∧ s.callbacks <+: t.callbacks ∧ s.labels <+: t.labels

/-- Every operation keeps the buffer's canonical form (the model's own representation, log 12). -/
def Obligations.EveryOperationKeepsTheMemoryCanonical : Prop :=
  ∀ (i : Instr) (s t : State), Memory.wf s.dec.buffer → exec i s = .next t → Memory.wf t.dec.buffer

/-! ### Sequences of received bytes (R87, R128) -/

/-- R87 item 1, R76: whatever came before, a delimiter leaves every decoder register clear and the buffer cleared
(`lenHigh` and `ignoring` by the spec's own D3, D6). -/
def Obligations.DelimiterAlwaysResynchronises : Prop :=
  ∀ (s : State) (bytes : List Byte), s.Inv → s.fatal = false →
    ∃ t, feed (bytes ++ [0x7E]) s = .next t ∧ t.dec.offset = 0 ∧ t.dec.declaredSize = 0 ∧ t.dec.lenHigh = 0 ∧
      t.dec.checksumAccumulator = 0 ∧ t.dec.escapePending = false ∧ t.dec.ignoring = false ∧
      ∀ a, t.dec.buffer.read a = 0x00

/-- R35, R77 (the spec's own D6): once a frame has ended, bytes other than the delimiter change nothing at all. -/
def Obligations.FrameIsStableUntilTheNextDelimiter : Prop :=
  ∀ (s : State) (bytes : List Byte), s.dec.ignoring = true → (∀ b ∈ bytes, b ≠ 0x7E) → feed bytes s = .next s

/-- R87 item 2: between two delimiters at most one `frame_ready` is raised. -/
def Obligations.AtMostOneFramePerDelimiter : Prop :=
  ∀ (s t : State) (bytes : List Byte), (∀ b ∈ bytes, b ≠ 0x7E) → feed bytes s = .next t →
    t.frameReady = s.frameReady ∨ ∃ n, t.frameReady = s.frameReady ++ [n]

/-- R87 item 4, R55: an escape pair advances the decoder by one and stores one byte, whatever byte follows the marker
(at the new offset: DEDUCED, log 17). -/
def Obligations.EscapePairStoresOneByte : Prop :=
  ∀ (s : State) (x : Byte), s.Inv → s.fatal = false → s.dec.ignoring = false → 2 ≤ s.dec.offset.toNat →
    s.dec.escapePending = false → x ≠ 0x7E →
    ∃ t, feed [0x7D, x] s = .next t ∧ t.dec.offset.toNat = s.dec.offset.toNat + 1 ∧
      t.dec.escapePending = false ∧
      ∀ a, t.dec.buffer.read a = if a = s.dec.offset.toNat + 1 then x ^^^ 0x20 else s.dec.buffer.read a

/-- R87 items 3 and 5, R143: what the decoder and the buffer hold at every `frame_ready(n)`. -/
def Obligations.FrameReadyHandsOverAValidFrame : Prop :=
  ∀ (s t : State) (n : Size), s.Inv → step s = .next t → t.frameReady = s.frameReady ++ [n] →
    3 ≤ n.toNat ∧ t.dec.offset = n ∧ t.dec.declaredSize = n ∧ t.dec.ignoring = true ∧ t.dec.escapePending = false ∧
    t.dec.buffer.read 0 = 0x7E ∧
    (t.dec.buffer.read 1).toNat * 256 + (t.dec.buffer.read 2).toNat + 3 = n.toNat ∧
    t.dec.buffer.read n.toNat =
      0xFF - BitVec.ofNat 8 ((List.range' 3 (n.toNat - 3)).map fun i => (t.dec.buffer.read i).toNat).sum ∧
    ∀ a, n.toNat < a → t.dec.buffer.read a = 0x00

/-- R87 item 6 (with the narrowing of 90_conflicts.md C2): from any state with `fatal = 0`, the wire frame of a logical
frame that fits, with neither length byte reserved, raises exactly one `frame_ready(L + 3)`, on its last byte, and leaves
the logical frame in the buffer. -/
def Obligations.WireFrameIsAlwaysDecoded : Prop :=
  ∀ (s : State) (data : List Byte), s.cfg.Valid → s.fatal = false → data.length + 4 ≤ s.cfg.bufCap →
    BitVec.ofNat 8 (data.length / 256) ∉ RESERVED → BitVec.ofNat 8 data.length ∉ RESERVED →
    ∃ u t n, feed (wireFrame (specFrame data)).dropLast s = .next u ∧ u.frameReady = s.frameReady ∧
      feed (wireFrame (specFrame data)) s = .next t ∧ t.frameReady = s.frameReady ++ [n] ∧
      n.toNat = data.length + 3 ∧
      ∀ i, i < data.length + 4 → (specFrame data)[i]? = some (t.dec.buffer.read i)

/-- R128: what `SEND_DATA_ESC` writes, looped back outside the block, raises one `frame_ready` and the payload is in the
buffer at its index in format F-TX. -/
def Obligations.StreamedDataFrameRoundTrips : Prop :=
  ∀ (s : State) (dest : Address) (payload : List Byte), s.cfg.Valid → s.fatal = false →
    payload.length ≤ s.cfg.txMaxN → (txData s.cfg dest payload).length + 4 ≤ s.cfg.bufCap →
    BitVec.ofNat 8 ((txData s.cfg dest payload).length / 256) ∉ RESERVED →
    BitVec.ofNat 8 (txData s.cfg dest payload).length ∉ RESERVED →
    ∃ t w u n, exec (.sendDataEsc dest payload) s = .next t ∧ t.writtenBytes = s.writtenBytes ++ w ∧
      feed w t = .next u ∧ u.frameReady = s.frameReady ++ [n] ∧
      n.toNat = (txData s.cfg dest payload).length + 3 ∧
      ∀ k, k < payload.length →
        payload[k]? = some (u.dec.buffer.read (11 + s.cfg.txPre.length + s.cfg.txPost.length + k))

/-- R128 for `SEND_AT` with `AT_ESCAPE` (the spec's own D11). -/
def Obligations.CommandFrameRoundTrips : Prop :=
  ∀ (s : State) (cmd0 cmd1 : Byte) (param : List Byte), s.cfg.Valid → s.fatal = false → s.cfg.atEscape = true →
    8 + param.length ≤ s.cfg.atBufCap → 8 + param.length ≤ s.cfg.bufCap →
    BitVec.ofNat 8 (4 + param.length) ∉ RESERVED →
    ∃ t w u n, exec (.sendAt cmd0 cmd1 param) s = .next t ∧ t.writtenBytes = s.writtenBytes ++ w ∧
      feed w t = .next u ∧ u.frameReady = s.frameReady ++ [n] ∧ n.toNat = 7 + param.length ∧
      u.dec.buffer.read 3 = s.cfg.ftAtCmd ∧ u.dec.buffer.read 4 = s.enc.frameId ∧
      u.dec.buffer.read 5 = cmd0 ∧ u.dec.buffer.read 6 = cmd1 ∧
      ∀ k, k < param.length → param[k]? = some (u.dec.buffer.read (7 + k))

/-! ### The consumer (R110 to R117), outside the block (log 10) -/

/-- R112: the view of a local AT-command response. -/
def Obligations.ViewOfAnAtResponse : Prop :=
  ∀ (c : Config) (m : Memory) (n : Nat), m.read 3 = 0x88 → 5 ≤ n →
    viewOf c m n = some { frameType := 0x88, sourceAddress64 := none, sourceAddress16 := none,
                          payloadStart := 5, payloadLength := n - 5 }

/-- R113, R114, R115: the views of the two receive indicators, the addresses as big-endian numbers (D20). -/
def Obligations.ViewOfAReceiveIndicator : Prop :=
  ∀ (c : Config) (m : Memory) (n : Nat), c.Valid →
    ∃ (a64 : Address) (a16 : ShortAddress),
      a64.toNat = ((List.range 8).map fun k => (m.read (4 + k)).toNat * 256 ^ (7 - k)).sum ∧
      a16.toNat = (m.read 12).toNat * 256 + (m.read 13).toNat ∧
      (m.read 3 = c.ftRxExplicit → 21 ≤ n → viewOf c m n = some
        { frameType := c.ftRxExplicit, sourceAddress64 := some a64, sourceAddress16 := some a16,
          payloadStart := 21, payloadLength := n - 21 }) ∧
      (m.read 3 = c.ftRxNet → 15 ≤ n → viewOf c m n = some
        { frameType := c.ftRxNet, sourceAddress64 := some a64, sourceAddress16 := some a16,
          payloadStart := 15, payloadLength := n - 15 })

/-- R116 (a), (b), R147 (too short: the spec's own D21): no view of an unknown type or of a frame too short for it. -/
def Obligations.NoViewOfAnUnknownOrShortFrame : Prop :=
  ∀ (c : Config) (m : Memory) (n : Nat), c.Valid →
    (m.read 3 ≠ 0x88 → m.read 3 ≠ c.ftRxExplicit → m.read 3 ≠ c.ftRxNet → viewOf c m n = none) ∧
    (m.read 3 = 0x88 → n < 5 → viewOf c m n = none) ∧
    (m.read 3 = c.ftRxExplicit → n < 21 → viewOf c m n = none) ∧
    (m.read 3 = c.ftRxNet → n < 15 → viewOf c m n = none)

/-- R117: the registered handler is invoked once, inside the step of the checksum byte, with the view and the bytes it
selects; an unrecognised frame, or no handler, invokes nothing.  The label E5 of an unrecognised frame is the model's own
(log 5: R140 allows one for E2 to E4 only), and so is the record of invocations (log 10). -/
def Obligations.HandlerIsInvokedOncePerRecognisedFrame : Prop :=
  ∀ (s t : State) (v : Byte), s.fatal = false → exec (.rxCsum v) s = .next t →
    v = 0xFF - s.dec.checksumAccumulator →
    (∀ h w, s.handler = some h → viewOf s.cfg t.dec.buffer s.dec.declaredSize.toNat = some w →
      t.callbacks = s.callbacks ++ [{ handler := h, view := w, payload :=
        (List.range' w.payloadStart w.payloadLength).map fun i => t.dec.buffer.read i }] ∧ t.labels = s.labels) ∧
    (∀ w, s.handler = none → viewOf s.cfg t.dec.buffer s.dec.declaredSize.toNat = some w →
      t.callbacks = s.callbacks ∧ t.labels = s.labels) ∧
    (viewOf s.cfg t.dec.buffer s.dec.declaredSize.toNat = none →
      t.callbacks = s.callbacks ∧ t.labels = s.labels ++ [.unknownType])
end

