-- ==== Sys2Proof/Laws/Memory.lean ====
section
/-! SUPPORT. Laws/Memory.lean: reading and writing the frame buffer, and its canonical form. -/

namespace Sys2Proof.Machine

@[simp] theorem Memory.read_nil (a : Nat) : Memory.read [] a = 0 := rfl

theorem Memory.wf_iff (m : Memory) : m.wf = true ↔ m.Canonical := decide_eq_true_iff

@[simp] theorem Memory.wf_nil : Memory.wf [] = true := rfl

/-- An address below every listed one reads 0x00. -/
theorem Memory.read_of_below {m : Memory} {a : Nat} (h : ∀ c ∈ m, a < c.1) : m.read a = 0 := by
  induction m with
  | nil => rfl
  | cons c rest ih =>
    obtain ⟨k, w⟩ := c
    have hk : a < k := h (k, w) (by simp)
    have : k ≠ a := by omega
    simpa [Memory.read, this] using ih fun c hc => h c (by simp [hc])

/-- An address above every listed one reads 0x00. -/
theorem Memory.read_of_above {m : Memory} {k : Nat} (h : ∀ c ∈ m, c.1 ≤ k) {a : Nat} (ha : k < a) : m.read a = 0 := by
  induction m with
  | nil => rfl
  | cons c rest ih =>
    obtain ⟨j, w⟩ := c
    have hj : j ≤ k := h (j, w) (by simp)
    have : j ≠ a := by omega
    simpa [Memory.read, this] using ih fun c hc => h c (by simp [hc])

/-- A byte put in front reads back at its address; all else reads as in the rest. -/
theorem Memory.read_put {m : Memory} {a : Nat} (v : Byte) (h : ∀ c ∈ m, a < c.1) (b : Nat) :
    (Memory.cons a v m).read b = if b = a then v else m.read b := by
  by_cases hv : v = 0
  · rw [Memory.cons, if_pos hv]
    by_cases hb : b = a
    · subst hb; rw [if_pos rfl, hv, Memory.read_of_below h]
    · rw [if_neg hb]
  · rw [Memory.cons, if_neg hv]
    by_cases hb : b = a
    · subst hb; simp [Memory.read]
    · simp [Memory.read, hb, Ne.symm hb]

/-- A read after a write gives the value written at its address, and the old value everywhere else. -/
theorem Memory.read_write {m : Memory} (hm : m.wf) (a : Nat) (v : Byte) (b : Nat) :
    (m.write a v).read b = if b = a then v else m.read b := by
  induction m with
  | nil => simpa [Memory.write] using Memory.read_put (m := []) (a := a) v (by simp) b
  | cons c rest ih =>
    obtain ⟨k, w⟩ := c
    obtain ⟨hs, hn⟩ := (Memory.wf_iff _).1 hm
    rw [List.pairwise_cons] at hs
    simp only [Memory.write]
    split
    · rename_i hak
      refine Memory.read_put v ?_ b
      intro c hc
      rcases List.mem_cons.mp hc with rfl | hc
      · exact hak
      · exact Nat.lt_trans hak (hs.1 c hc)
    · split
      · rename_i _ hak
        subst hak
        rw [Memory.read_put v (fun c hc => hs.1 c hc) b]
        by_cases hb : b = a
        · simp [hb]
        · simp [hb, Memory.read, Ne.symm hb]
      · rename_i _ hne
        have ih := ih ((Memory.wf_iff _).2 ⟨hs.2, fun c hc => hn c (by simp [hc])⟩)
        by_cases hk : k = b
        · subst hk; simp [Memory.read, Ne.symm hne]
        · simp [Memory.read, hk, ih]

/-- Every address listed after a write is the written one or was listed before. -/
theorem Memory.mem_write {m : Memory} {a : Nat} {v : Byte} {c : Host.Cell} (h : c ∈ m.write a v) :
    c.1 = a ∨ c ∈ m := by
  induction m with
  | nil =>
    simp only [Memory.write, Memory.cons] at h
    split at h
    · simp at h
    · simp at h; simp [h]
  | cons d rest ih =>
    obtain ⟨k, w⟩ := d
    simp only [Memory.write, Memory.cons] at h
    split at h <;> split at h <;> (try split at h) <;> simp only [List.mem_cons] at h ⊢
    all_goals first
      | tauto
      | (rcases h with rfl | h <;> first | simp | tauto)

theorem Memory.canonical_put {m : Memory} (hm : m.Canonical) {a : Nat} (v : Byte) (h : ∀ c ∈ m, a < c.1) :
    (Memory.cons a v m).Canonical := by
  unfold Memory.cons
  split
  · exact hm
  · rename_i hv
    exact ⟨List.pairwise_cons.mpr ⟨fun c hc => h c hc, hm.1⟩, by
      intro c hc
      rcases List.mem_cons.mp hc with rfl | hc
      · exact hv
      · exact hm.2 c hc⟩

theorem Memory.canonical_write {m : Memory} (hm : m.Canonical) (a : Nat) (v : Byte) : (m.write a v).Canonical := by
  induction m with
  | nil => exact Memory.canonical_put hm v (by simp)
  | cons c rest ih =>
    obtain ⟨k, w⟩ := c
    have hs := List.pairwise_cons.mp hm.1
    have hr : Memory.Canonical rest := ⟨hs.2, fun c hc => hm.2 c (by simp [hc])⟩
    simp only [Memory.write]
    split
    · rename_i hak
      refine Memory.canonical_put hm v ?_
      intro c hc
      rcases List.mem_cons.mp hc with rfl | hc
      · exact hak
      · exact Nat.lt_trans hak (hs.1 c hc)
    · split
      · rename_i _ hak
        subst hak
        exact Memory.canonical_put hr v hs.1
      · rename_i hlt hne
        refine ⟨List.pairwise_cons.mpr ⟨?_, (ih hr).1⟩, ?_⟩
        · intro c hc
          rcases Memory.mem_write hc with h | h
          · show k < c.1
            omega
          · exact hs.1 c h
        · intro c hc
          rcases List.mem_cons.mp hc with rfl | hc
          · exact hm.2 (k, w) (by simp)
          · exact (ih hr).2 c hc

/-- A write keeps the canonical form. -/
theorem Memory.wf_write {m : Memory} (hm : m.wf) (a : Nat) (v : Byte) : (m.write a v).wf :=
  (Memory.wf_iff _).2 (Memory.canonical_write ((Memory.wf_iff _).1 hm) a v)

theorem Memory.canonical_ext {m n : Memory} (hm : m.Canonical) (hn : n.Canonical) (h : ∀ a, m.read a = n.read a) : m = n := by
  induction m generalizing n with
  | nil =>
    cases n with
    | nil => rfl
    | cons d n =>
      have := h d.1
      simp [Memory.read] at this
      exact absurd this.symm (hn.2 d (by simp))
  | cons c m ih =>
    obtain ⟨k, w⟩ := c
    have hw : w ≠ 0 := hm.2 (k, w) (by simp)
    have hms := List.pairwise_cons.mp hm.1
    cases n with
    | nil =>
      have := h k
      simp [Memory.read] at this
      exact absurd this hw
    | cons d n =>
      obtain ⟨j, x⟩ := d
      have hx : x ≠ 0 := hn.2 (j, x) (by simp)
      have hns := List.pairwise_cons.mp hn.1
      have hjk : j = k := by
        rcases Nat.lt_trichotomy j k with hlt | heq | hlt
        · have := h j
          rw [Memory.read_of_below (m := (k, w) :: m) (by
            intro c hc
            rcases List.mem_cons.mp hc with rfl | hc
            · exact hlt
            · exact Nat.lt_trans hlt (hms.1 c hc))] at this
          simp [Memory.read] at this
          exact absurd this.symm hx
        · exact heq
        · have := h k
          rw [Memory.read_of_below (m := (j, x) :: n) (by
            intro c hc
            rcases List.mem_cons.mp hc with rfl | hc
            · exact hlt
            · exact Nat.lt_trans hlt (hns.1 c hc))] at this
          simp [Memory.read] at this
          exact absurd this hw
      subst hjk
      have hwx : w = x := by simpa [Memory.read] using h j
      subst hwx
      have : m = n := ih ⟨hms.2, fun c hc => hm.2 c (by simp [hc])⟩
        ⟨hns.2, fun c hc => hn.2 c (by simp [hc])⟩ (by
          intro a
          by_cases ha : j = a
          · subst ha
            rw [Memory.read_of_below (fun c hc => hms.1 c hc), Memory.read_of_below (fun c hc => hns.1 c hc)]
          · simpa [Memory.read, ha] using h a)
      rw [this]

/-- Two canonical memories that read alike are equal. -/
theorem Memory.ext_of_read {m n : Memory} (hm : m.wf) (hn : n.wf) (h : ∀ a, m.read a = n.read a) : m = n :=
  Memory.canonical_ext ((Memory.wf_iff _).1 hm) ((Memory.wf_iff _).1 hn) h

/-- A canonical memory that reads 0x00 everywhere is empty. -/
theorem Memory.eq_nil_of_read {m : Memory} (hm : m.wf) (h : ∀ a, m.read a = 0) : m = [] :=
  Memory.ext_of_read hm Memory.wf_nil h

end Sys2Proof.Machine
end

