-- ==== Sys2Proof/Laws/State.lean ====
section
/-! SUPPORT. Laws/State.lean: one lemma per field per update of the state; no later proof unfolds an update. -/

namespace Sys2Proof.Machine

/-! ### label -/

@[simp] theorem label_cfg (c : Condition) (s : State) :
    (label c s).cfg = s.cfg := rfl
@[simp] theorem label_dec (c : Condition) (s : State) :
    (label c s).dec = s.dec := rfl
@[simp] theorem label_enc (c : Condition) (s : State) :
    (label c s).enc = s.enc := rfl
@[simp] theorem label_fatal (c : Condition) (s : State) :
    (label c s).fatal = s.fatal := rfl
@[simp] theorem label_transient (c : Condition) (s : State) :
    (label c s).transient = s.transient := rfl
@[simp] theorem label_handler (c : Condition) (s : State) :
    (label c s).handler = s.handler := rfl
@[simp] theorem label_inputs (c : Condition) (s : State) :
    (label c s).inputs = s.inputs := rfl
@[simp] theorem label_written (c : Condition) (s : State) :
    (label c s).written = s.written := rfl
@[simp] theorem label_frameReady (c : Condition) (s : State) :
    (label c s).frameReady = s.frameReady := rfl
@[simp] theorem label_callbacks (c : Condition) (s : State) :
    (label c s).callbacks = s.callbacks := rfl
@[simp] theorem label_labels (c : Condition) (s : State) :
    (label c s).labels = s.labels ++ [c] := rfl
@[simp] theorem label_returned (c : Condition) (s : State) :
    (label c s).returned = s.returned := rfl
@[simp] theorem label_freeCount (c : Condition) (s : State) :
    (label c s).freeCount = s.freeCount := rfl

/-! ### raiseFatal -/

@[simp] theorem raiseFatal_cfg (c : Condition) (s : State) :
    (raiseFatal c s).cfg = s.cfg := rfl
@[simp] theorem raiseFatal_dec (c : Condition) (s : State) :
    (raiseFatal c s).dec = s.dec := rfl
@[simp] theorem raiseFatal_enc (c : Condition) (s : State) :
    (raiseFatal c s).enc = s.enc := rfl
@[simp] theorem raiseFatal_fatal (c : Condition) (s : State) :
    (raiseFatal c s).fatal = true := rfl
@[simp] theorem raiseFatal_transient (c : Condition) (s : State) :
    (raiseFatal c s).transient = s.transient := rfl
@[simp] theorem raiseFatal_handler (c : Condition) (s : State) :
    (raiseFatal c s).handler = s.handler := rfl
@[simp] theorem raiseFatal_inputs (c : Condition) (s : State) :
    (raiseFatal c s).inputs = s.inputs := rfl
@[simp] theorem raiseFatal_written (c : Condition) (s : State) :
    (raiseFatal c s).written = s.written := rfl
@[simp] theorem raiseFatal_frameReady (c : Condition) (s : State) :
    (raiseFatal c s).frameReady = s.frameReady := rfl
@[simp] theorem raiseFatal_callbacks (c : Condition) (s : State) :
    (raiseFatal c s).callbacks = s.callbacks := rfl
@[simp] theorem raiseFatal_labels (c : Condition) (s : State) :
    (raiseFatal c s).labels = s.labels ++ [c] := rfl
@[simp] theorem raiseFatal_returned (c : Condition) (s : State) :
    (raiseFatal c s).returned = s.returned := rfl
@[simp] theorem raiseFatal_freeCount (c : Condition) (s : State) :
    (raiseFatal c s).freeCount = s.freeCount := rfl

/-! ### setAcc_dec -/

@[simp] theorem setAcc_dec_cfg (v : Byte) (s : State) :
    (setAcc .dec v s).cfg = s.cfg := rfl
@[simp] theorem setAcc_dec_dec (v : Byte) (s : State) :
    (setAcc .dec v s).dec = { s.dec with checksumAccumulator := v } := rfl
@[simp] theorem setAcc_dec_enc (v : Byte) (s : State) :
    (setAcc .dec v s).enc = s.enc := rfl
@[simp] theorem setAcc_dec_fatal (v : Byte) (s : State) :
    (setAcc .dec v s).fatal = s.fatal := rfl
@[simp] theorem setAcc_dec_transient (v : Byte) (s : State) :
    (setAcc .dec v s).transient = s.transient := rfl
@[simp] theorem setAcc_dec_handler (v : Byte) (s : State) :
    (setAcc .dec v s).handler = s.handler := rfl
@[simp] theorem setAcc_dec_inputs (v : Byte) (s : State) :
    (setAcc .dec v s).inputs = s.inputs := rfl
@[simp] theorem setAcc_dec_written (v : Byte) (s : State) :
    (setAcc .dec v s).written = s.written := rfl
@[simp] theorem setAcc_dec_frameReady (v : Byte) (s : State) :
    (setAcc .dec v s).frameReady = s.frameReady := rfl
@[simp] theorem setAcc_dec_callbacks (v : Byte) (s : State) :
    (setAcc .dec v s).callbacks = s.callbacks := rfl
@[simp] theorem setAcc_dec_labels (v : Byte) (s : State) :
    (setAcc .dec v s).labels = s.labels := rfl
@[simp] theorem setAcc_dec_returned (v : Byte) (s : State) :
    (setAcc .dec v s).returned = s.returned := rfl
@[simp] theorem setAcc_dec_freeCount (v : Byte) (s : State) :
    (setAcc .dec v s).freeCount = s.freeCount := rfl

/-! ### setAcc_enc -/

@[simp] theorem setAcc_enc_cfg (v : Byte) (s : State) :
    (setAcc .enc v s).cfg = s.cfg := rfl
@[simp] theorem setAcc_enc_dec (v : Byte) (s : State) :
    (setAcc .enc v s).dec = s.dec := rfl
@[simp] theorem setAcc_enc_enc (v : Byte) (s : State) :
    (setAcc .enc v s).enc = s.enc := rfl
@[simp] theorem setAcc_enc_fatal (v : Byte) (s : State) :
    (setAcc .enc v s).fatal = s.fatal := rfl
@[simp] theorem setAcc_enc_transient (v : Byte) (s : State) :
    (setAcc .enc v s).transient = { s.transient with txAcc := v } := rfl
@[simp] theorem setAcc_enc_handler (v : Byte) (s : State) :
    (setAcc .enc v s).handler = s.handler := rfl
@[simp] theorem setAcc_enc_inputs (v : Byte) (s : State) :
    (setAcc .enc v s).inputs = s.inputs := rfl
@[simp] theorem setAcc_enc_written (v : Byte) (s : State) :
    (setAcc .enc v s).written = s.written := rfl
@[simp] theorem setAcc_enc_frameReady (v : Byte) (s : State) :
    (setAcc .enc v s).frameReady = s.frameReady := rfl
@[simp] theorem setAcc_enc_callbacks (v : Byte) (s : State) :
    (setAcc .enc v s).callbacks = s.callbacks := rfl
@[simp] theorem setAcc_enc_labels (v : Byte) (s : State) :
    (setAcc .enc v s).labels = s.labels := rfl
@[simp] theorem setAcc_enc_returned (v : Byte) (s : State) :
    (setAcc .enc v s).returned = s.returned := rfl
@[simp] theorem setAcc_enc_freeCount (v : Byte) (s : State) :
    (setAcc .enc v s).freeCount = s.freeCount := rfl

/-! ### fidNext -/

@[simp] theorem fidNext_cfg (s : State) :
    (fidNext s).cfg = s.cfg := rfl
@[simp] theorem fidNext_dec (s : State) :
    (fidNext s).dec = s.dec := rfl
@[simp] theorem fidNext_enc (s : State) :
    (fidNext s).enc = { frameId := frameIdNext s.enc.frameId } := rfl
@[simp] theorem fidNext_fatal (s : State) :
    (fidNext s).fatal = s.fatal := rfl
@[simp] theorem fidNext_transient (s : State) :
    (fidNext s).transient = s.transient := rfl
@[simp] theorem fidNext_handler (s : State) :
    (fidNext s).handler = s.handler := rfl
@[simp] theorem fidNext_inputs (s : State) :
    (fidNext s).inputs = s.inputs := rfl
@[simp] theorem fidNext_written (s : State) :
    (fidNext s).written = s.written := rfl
@[simp] theorem fidNext_frameReady (s : State) :
    (fidNext s).frameReady = s.frameReady := rfl
@[simp] theorem fidNext_callbacks (s : State) :
    (fidNext s).callbacks = s.callbacks := rfl
@[simp] theorem fidNext_labels (s : State) :
    (fidNext s).labels = s.labels := rfl
@[simp] theorem fidNext_returned (s : State) :
    (fidNext s).returned = s.returned := rfl
@[simp] theorem fidNext_freeCount (s : State) :
    (fidNext s).freeCount = s.freeCount := rfl

/-! ### out -/

@[simp] theorem out_cfg (v : Byte) (s : State) :
    (out v s).cfg = s.cfg := rfl
@[simp] theorem out_dec (v : Byte) (s : State) :
    (out v s).dec = s.dec := rfl
@[simp] theorem out_enc (v : Byte) (s : State) :
    (out v s).enc = s.enc := rfl
@[simp] theorem out_fatal (v : Byte) (s : State) :
    (out v s).fatal = s.fatal := rfl
@[simp] theorem out_transient (v : Byte) (s : State) :
    (out v s).transient = s.transient := rfl
@[simp] theorem out_handler (v : Byte) (s : State) :
    (out v s).handler = s.handler := rfl
@[simp] theorem out_inputs (v : Byte) (s : State) :
    (out v s).inputs = s.inputs := rfl
@[simp] theorem out_written (v : Byte) (s : State) :
    (out v s).written = s.written ++ [.byte v] := rfl
@[simp] theorem out_frameReady (v : Byte) (s : State) :
    (out v s).frameReady = s.frameReady := rfl
@[simp] theorem out_callbacks (v : Byte) (s : State) :
    (out v s).callbacks = s.callbacks := rfl
@[simp] theorem out_labels (v : Byte) (s : State) :
    (out v s).labels = s.labels := rfl
@[simp] theorem out_returned (v : Byte) (s : State) :
    (out v s).returned = s.returned := rfl
@[simp] theorem out_freeCount (v : Byte) (s : State) :
    (out v s).freeCount = s.freeCount := rfl

/-! ### outN -/

@[simp] theorem outN_cfg (l : List Byte) (s : State) :
    (outN l s).cfg = s.cfg := rfl
@[simp] theorem outN_dec (l : List Byte) (s : State) :
    (outN l s).dec = s.dec := rfl
@[simp] theorem outN_enc (l : List Byte) (s : State) :
    (outN l s).enc = s.enc := rfl
@[simp] theorem outN_fatal (l : List Byte) (s : State) :
    (outN l s).fatal = s.fatal := rfl
@[simp] theorem outN_transient (l : List Byte) (s : State) :
    (outN l s).transient = s.transient := rfl
@[simp] theorem outN_handler (l : List Byte) (s : State) :
    (outN l s).handler = s.handler := rfl
@[simp] theorem outN_inputs (l : List Byte) (s : State) :
    (outN l s).inputs = s.inputs := rfl
@[simp] theorem outN_written (l : List Byte) (s : State) :
    (outN l s).written = s.written ++ [.bulk l] := rfl
@[simp] theorem outN_frameReady (l : List Byte) (s : State) :
    (outN l s).frameReady = s.frameReady := rfl
@[simp] theorem outN_callbacks (l : List Byte) (s : State) :
    (outN l s).callbacks = s.callbacks := rfl
@[simp] theorem outN_labels (l : List Byte) (s : State) :
    (outN l s).labels = s.labels := rfl
@[simp] theorem outN_returned (l : List Byte) (s : State) :
    (outN l s).returned = s.returned := rfl
@[simp] theorem outN_freeCount (l : List Byte) (s : State) :
    (outN l s).freeCount = s.freeCount := rfl

/-! ### endCommand -/

@[simp] theorem endCommand_cfg (s : State) :
    (endCommand s).cfg = s.cfg := rfl
@[simp] theorem endCommand_dec (s : State) :
    (endCommand s).dec = s.dec := rfl
@[simp] theorem endCommand_enc (s : State) :
    (endCommand s).enc = s.enc := rfl
@[simp] theorem endCommand_fatal (s : State) :
    (endCommand s).fatal = s.fatal := rfl
@[simp] theorem endCommand_transient (s : State) :
    (endCommand s).transient = { txAcc := Config.freeTxAcc s.freeCount, txBuf := Config.freeTxBuf s.freeCount } := rfl
@[simp] theorem endCommand_handler (s : State) :
    (endCommand s).handler = s.handler := rfl
@[simp] theorem endCommand_inputs (s : State) :
    (endCommand s).inputs = s.inputs := rfl
@[simp] theorem endCommand_written (s : State) :
    (endCommand s).written = s.written := rfl
@[simp] theorem endCommand_frameReady (s : State) :
    (endCommand s).frameReady = s.frameReady := rfl
@[simp] theorem endCommand_callbacks (s : State) :
    (endCommand s).callbacks = s.callbacks := rfl
@[simp] theorem endCommand_labels (s : State) :
    (endCommand s).labels = s.labels := rfl
@[simp] theorem endCommand_returned (s : State) :
    (endCommand s).returned = s.returned := rfl
@[simp] theorem endCommand_freeCount (s : State) :
    (endCommand s).freeCount = s.freeCount + 1 := rfl

/-! ### assemble -/

@[simp] theorem assemble_cfg (l : List Byte) (s : State) :
    (assemble l s).cfg = s.cfg := rfl
@[simp] theorem assemble_dec (l : List Byte) (s : State) :
    (assemble l s).dec = s.dec := rfl
@[simp] theorem assemble_enc (l : List Byte) (s : State) :
    (assemble l s).enc = s.enc := rfl
@[simp] theorem assemble_fatal (l : List Byte) (s : State) :
    (assemble l s).fatal = s.fatal := rfl
@[simp] theorem assemble_transient (l : List Byte) (s : State) :
    (assemble l s).transient = { s.transient with txBuf := l } := rfl
@[simp] theorem assemble_handler (l : List Byte) (s : State) :
    (assemble l s).handler = s.handler := rfl
@[simp] theorem assemble_inputs (l : List Byte) (s : State) :
    (assemble l s).inputs = s.inputs := rfl
@[simp] theorem assemble_written (l : List Byte) (s : State) :
    (assemble l s).written = s.written := rfl
@[simp] theorem assemble_frameReady (l : List Byte) (s : State) :
    (assemble l s).frameReady = s.frameReady := rfl
@[simp] theorem assemble_callbacks (l : List Byte) (s : State) :
    (assemble l s).callbacks = s.callbacks := rfl
@[simp] theorem assemble_labels (l : List Byte) (s : State) :
    (assemble l s).labels = s.labels := rfl
@[simp] theorem assemble_returned (l : List Byte) (s : State) :
    (assemble l s).returned = s.returned := rfl
@[simp] theorem assemble_freeCount (l : List Byte) (s : State) :
    (assemble l s).freeCount = s.freeCount := rfl

/-! ### clearDecoder -/

@[simp] theorem clearDecoder_cfg (s : State) :
    (clearDecoder s).cfg = s.cfg := rfl
@[simp] theorem clearDecoder_dec (s : State) :
    (clearDecoder s).dec = Dec.fresh := rfl
@[simp] theorem clearDecoder_enc (s : State) :
    (clearDecoder s).enc = s.enc := rfl
@[simp] theorem clearDecoder_fatal (s : State) :
    (clearDecoder s).fatal = s.fatal := rfl
@[simp] theorem clearDecoder_transient (s : State) :
    (clearDecoder s).transient = s.transient := rfl
@[simp] theorem clearDecoder_handler (s : State) :
    (clearDecoder s).handler = s.handler := rfl
@[simp] theorem clearDecoder_inputs (s : State) :
    (clearDecoder s).inputs = s.inputs := rfl
@[simp] theorem clearDecoder_written (s : State) :
    (clearDecoder s).written = s.written := rfl
@[simp] theorem clearDecoder_frameReady (s : State) :
    (clearDecoder s).frameReady = s.frameReady := rfl
@[simp] theorem clearDecoder_callbacks (s : State) :
    (clearDecoder s).callbacks = s.callbacks := rfl
@[simp] theorem clearDecoder_labels (s : State) :
    (clearDecoder s).labels = s.labels := rfl
@[simp] theorem clearDecoder_returned (s : State) :
    (clearDecoder s).returned = s.returned := rfl
@[simp] theorem clearDecoder_freeCount (s : State) :
    (clearDecoder s).freeCount = s.freeCount := rfl

/-! ### takeLengthLow -/

@[simp] theorem takeLengthLow_cfg (b : Byte) (s : State) :
    (takeLengthLow b s).cfg = s.cfg := rfl
@[simp] theorem takeLengthLow_dec (b : Byte) (s : State) :
    (takeLengthLow b s).dec = { s.dec with offset := 2, declaredSize := declaredSizeOf (declaredLength s.dec.lenHigh b) } := rfl
@[simp] theorem takeLengthLow_enc (b : Byte) (s : State) :
    (takeLengthLow b s).enc = s.enc := rfl
@[simp] theorem takeLengthLow_fatal (b : Byte) (s : State) :
    (takeLengthLow b s).fatal = s.fatal := rfl
@[simp] theorem takeLengthLow_transient (b : Byte) (s : State) :
    (takeLengthLow b s).transient = s.transient := rfl
@[simp] theorem takeLengthLow_handler (b : Byte) (s : State) :
    (takeLengthLow b s).handler = s.handler := rfl
@[simp] theorem takeLengthLow_inputs (b : Byte) (s : State) :
    (takeLengthLow b s).inputs = s.inputs := rfl
@[simp] theorem takeLengthLow_written (b : Byte) (s : State) :
    (takeLengthLow b s).written = s.written := rfl
@[simp] theorem takeLengthLow_frameReady (b : Byte) (s : State) :
    (takeLengthLow b s).frameReady = s.frameReady := rfl
@[simp] theorem takeLengthLow_callbacks (b : Byte) (s : State) :
    (takeLengthLow b s).callbacks = s.callbacks := rfl
@[simp] theorem takeLengthLow_labels (b : Byte) (s : State) :
    (takeLengthLow b s).labels = s.labels := rfl
@[simp] theorem takeLengthLow_returned (b : Byte) (s : State) :
    (takeLengthLow b s).returned = s.returned := rfl
@[simp] theorem takeLengthLow_freeCount (b : Byte) (s : State) :
    (takeLengthLow b s).freeCount = s.freeCount := rfl

/-! ### advance -/

@[simp] theorem advance_cfg (s : State) :
    (advance s).cfg = s.cfg := rfl
@[simp] theorem advance_dec (s : State) :
    (advance s).dec = { s.dec with offset := s.dec.offset + 1 } := rfl
@[simp] theorem advance_enc (s : State) :
    (advance s).enc = s.enc := rfl
@[simp] theorem advance_fatal (s : State) :
    (advance s).fatal = s.fatal := rfl
@[simp] theorem advance_transient (s : State) :
    (advance s).transient = s.transient := rfl
@[simp] theorem advance_handler (s : State) :
    (advance s).handler = s.handler := rfl
@[simp] theorem advance_inputs (s : State) :
    (advance s).inputs = s.inputs := rfl
@[simp] theorem advance_written (s : State) :
    (advance s).written = s.written := rfl
@[simp] theorem advance_frameReady (s : State) :
    (advance s).frameReady = s.frameReady := rfl
@[simp] theorem advance_callbacks (s : State) :
    (advance s).callbacks = s.callbacks := rfl
@[simp] theorem advance_labels (s : State) :
    (advance s).labels = s.labels := rfl
@[simp] theorem advance_returned (s : State) :
    (advance s).returned = s.returned := rfl
@[simp] theorem advance_freeCount (s : State) :
    (advance s).freeCount = s.freeCount := rfl

/-! ### ignoreRest -/

@[simp] theorem ignoreRest_cfg (s : State) :
    (ignoreRest s).cfg = s.cfg := rfl
@[simp] theorem ignoreRest_dec (s : State) :
    (ignoreRest s).dec = { s.dec with ignoring := true } := rfl
@[simp] theorem ignoreRest_enc (s : State) :
    (ignoreRest s).enc = s.enc := rfl
@[simp] theorem ignoreRest_fatal (s : State) :
    (ignoreRest s).fatal = s.fatal := rfl
@[simp] theorem ignoreRest_transient (s : State) :
    (ignoreRest s).transient = s.transient := rfl
@[simp] theorem ignoreRest_handler (s : State) :
    (ignoreRest s).handler = s.handler := rfl
@[simp] theorem ignoreRest_inputs (s : State) :
    (ignoreRest s).inputs = s.inputs := rfl
@[simp] theorem ignoreRest_written (s : State) :
    (ignoreRest s).written = s.written := rfl
@[simp] theorem ignoreRest_frameReady (s : State) :
    (ignoreRest s).frameReady = s.frameReady := rfl
@[simp] theorem ignoreRest_callbacks (s : State) :
    (ignoreRest s).callbacks = s.callbacks := rfl
@[simp] theorem ignoreRest_labels (s : State) :
    (ignoreRest s).labels = s.labels := rfl
@[simp] theorem ignoreRest_returned (s : State) :
    (ignoreRest s).returned = s.returned := rfl
@[simp] theorem ignoreRest_freeCount (s : State) :
    (ignoreRest s).freeCount = s.freeCount := rfl

/-! ### setEscape -/

@[simp] theorem setEscape_cfg (b : Bool) (s : State) :
    (setEscape b s).cfg = s.cfg := rfl
@[simp] theorem setEscape_dec (b : Bool) (s : State) :
    (setEscape b s).dec = { s.dec with escapePending := b } := rfl
@[simp] theorem setEscape_enc (b : Bool) (s : State) :
    (setEscape b s).enc = s.enc := rfl
@[simp] theorem setEscape_fatal (b : Bool) (s : State) :
    (setEscape b s).fatal = s.fatal := rfl
@[simp] theorem setEscape_transient (b : Bool) (s : State) :
    (setEscape b s).transient = s.transient := rfl
@[simp] theorem setEscape_handler (b : Bool) (s : State) :
    (setEscape b s).handler = s.handler := rfl
@[simp] theorem setEscape_inputs (b : Bool) (s : State) :
    (setEscape b s).inputs = s.inputs := rfl
@[simp] theorem setEscape_written (b : Bool) (s : State) :
    (setEscape b s).written = s.written := rfl
@[simp] theorem setEscape_frameReady (b : Bool) (s : State) :
    (setEscape b s).frameReady = s.frameReady := rfl
@[simp] theorem setEscape_callbacks (b : Bool) (s : State) :
    (setEscape b s).callbacks = s.callbacks := rfl
@[simp] theorem setEscape_labels (b : Bool) (s : State) :
    (setEscape b s).labels = s.labels := rfl
@[simp] theorem setEscape_returned (b : Bool) (s : State) :
    (setEscape b s).returned = s.returned := rfl
@[simp] theorem setEscape_freeCount (b : Bool) (s : State) :
    (setEscape b s).freeCount = s.freeCount := rfl

/-! ### registerHandler -/

@[simp] theorem registerHandler_cfg (h : Nat) (s : State) :
    (registerHandler h s).cfg = s.cfg := rfl
@[simp] theorem registerHandler_dec (h : Nat) (s : State) :
    (registerHandler h s).dec = s.dec := rfl
@[simp] theorem registerHandler_enc (h : Nat) (s : State) :
    (registerHandler h s).enc = s.enc := rfl
@[simp] theorem registerHandler_fatal (h : Nat) (s : State) :
    (registerHandler h s).fatal = s.fatal := rfl
@[simp] theorem registerHandler_transient (h : Nat) (s : State) :
    (registerHandler h s).transient = s.transient := rfl
@[simp] theorem registerHandler_handler (h : Nat) (s : State) :
    (registerHandler h s).handler = some h := rfl
@[simp] theorem registerHandler_inputs (h : Nat) (s : State) :
    (registerHandler h s).inputs = s.inputs := rfl
@[simp] theorem registerHandler_written (h : Nat) (s : State) :
    (registerHandler h s).written = s.written := rfl
@[simp] theorem registerHandler_frameReady (h : Nat) (s : State) :
    (registerHandler h s).frameReady = s.frameReady := rfl
@[simp] theorem registerHandler_callbacks (h : Nat) (s : State) :
    (registerHandler h s).callbacks = s.callbacks := rfl
@[simp] theorem registerHandler_labels (h : Nat) (s : State) :
    (registerHandler h s).labels = s.labels := rfl
@[simp] theorem registerHandler_returned (h : Nat) (s : State) :
    (registerHandler h s).returned = s.returned := rfl
@[simp] theorem registerHandler_freeCount (h : Nat) (s : State) :
    (registerHandler h s).freeCount = s.freeCount := rfl

/-! ### The reset state -/

@[simp] theorem resetWith_cfg (c : Config) : (State.resetWith c).cfg = c := rfl
@[simp] theorem resetWith_dec (c : Config) : (State.resetWith c).dec = Dec.fresh := rfl
@[simp] theorem resetWith_fatal (c : Config) : (State.resetWith c).fatal = false := rfl
@[simp] theorem resetWith_inputs (c : Config) : (State.resetWith c).inputs = [] := rfl
@[simp] theorem resetWith_frameId (c : Config) : (State.resetWith c).enc.frameId = 1 := rfl

/-! ### The primitives over the accumulators -/

@[simp] theorem acc_dec (s : State) : s.acc .dec = s.dec.checksumAccumulator := rfl
@[simp] theorem acc_enc (s : State) : s.acc .enc = s.transient.txAcc := rfl
theorem csClear_eq (acc : AccSel) (s : State) : csClear acc s = setAcc acc 0 s := rfl
theorem csAdd_eq (acc : AccSel) (v : Byte) (s : State) : csAdd acc v s = setAcc acc (addByte (s.acc acc) v) s := rfl

/-- An accumulator reads back the value written to it. -/
@[simp] theorem acc_setAcc (acc : AccSel) (v : Byte) (s : State) : (setAcc acc v s).acc acc = v := by
  cases acc <;> rfl

end Sys2Proof.Machine
end

