-- ==== Sys2Proof/Laws/Ops.lean ====
section
/-! SUPPORT. Laws/Ops.lean: for each shared operation, what it can do, once. -/

namespace Sys2Proof.Machine

/-! ### 17-bit counts (R105: no count of a reachable state overflows) -/

theorem offset_ge_two (o : Size) : 2 ≤ o.toNat ↔ o ≠ 0#17 ∧ o ≠ 1#17 := by
  constructor
  · intro h; constructor <;> rintro rfl <;> simp at h
  · rintro ⟨h0, h1⟩
    have h0 := fun h => h0 (BitVec.eq_of_toNat_eq h)
    have h1 := fun h => h1 (BitVec.eq_of_toNat_eq h)
    simp at h0 h1
    omega

theorem succ_toNat {o d : Size} (h : o.toNat + 1 ≤ d.toNat) : (o + 1).toNat = o.toNat + 1 := by
  have := d.isLt
  simp
  omega

theorem succ_eq {o d : Size} (h : o.toNat + 1 = d.toNat) : o + 1 = d := by
  apply BitVec.eq_of_toNat_eq
  rw [succ_toNat (Nat.le_of_eq h), h]

/-- `declaredSize = L + 3`, never truncated (R53). -/
theorem declaredSizeOf_toNat (a b : Byte) :
    (declaredSizeOf (declaredLength a b)).toNat = a.toNat * 256 + b.toNat + 3 := by
  have := a.isLt
  have := b.isLt
  simp [declaredSizeOf, declaredLength]
  omega

/-! ### Outcomes -/

@[simp] theorem andThen_next (s : State) (f : State → Result) : andThen (.next s) f = f s := rfl
@[simp] theorem andThen_fault (e : Fault) (f : State → Result) : andThen (.fault e) f = .fault e := rfl
@[simp] theorem andThen_refused (e : Refusal) (f : State → Result) : andThen (.refused e) f = .refused e := rfl

/-- A sequence answers next only through a next state of its first half. -/
theorem andThen_eq_next {r : Result} {f : State → Result} {t : State} (h : andThen r f = .next t) :
    ∃ s, r = .next s ∧ f s = .next t := by
  cases r with
  | next s => exact ⟨s, rfl, h⟩
  | fault e => cases h
  | refused e => cases h

theorem andThen_assoc (r : Result) (f g : State → Result) :
    andThen (andThen r f) g = andThen r fun s => andThen (f s) g := by cases r <;> rfl

theorem unlessHalted_of_fatal {s : State} (h : s.fatal = true) (r : Result) : unlessHalted s r = .next s := by
  simp [unlessHalted, h]

theorem unlessHalted_of_safe {s : State} (h : s.fatal = false) (r : Result) : unlessHalted s r = r := by
  simp [unlessHalted, h]

/-- Every guarded meaning: halted, or its rule. -/
theorem unlessHalted_eq_next {s t : State} {r : Result} (h : unlessHalted s r = .next t) :
    (s.fatal = true ∧ t = s) ∨ (s.fatal = false ∧ r = .next t) := by
  cases hf : s.fatal
  · exact .inr ⟨rfl, by simpa [unlessHalted, hf] using h⟩
  · exact .inl ⟨rfl, by simpa [unlessHalted, hf] using h.symm⟩

/-! ### Buffer stores -/

/-- The state a store leaves. -/
theorem storeByte_inside {i : Nat} {s : State} (v : Byte) (h : i < s.cfg.bufCap) :
    storeByte i v s = .next { s with dec := { s.dec with buffer := s.dec.buffer.write i v } } := by
  simp [storeByte, h]

theorem storeByte_outside {i : Nat} {s : State} (v : Byte) (h : s.cfg.bufCap ≤ i) :
    storeByte i v s = .fault (.bufferIndexOutOfRange i) := by
  simp [storeByte, Nat.not_lt.mpr h]

/-- A store answers next only inside the buffer, and then changes the buffer at one index. -/
theorem storeByte_eq_next {i : Nat} {v : Byte} {s t : State} (h : storeByte i v s = .next t) :
    i < s.cfg.bufCap ∧ t = { s with dec := { s.dec with buffer := s.dec.buffer.write i v } } := by
  unfold storeByte at h
  split at h
  · exact ⟨‹_›, by injection h with h; exact h.symm⟩
  · cases h

/-- The header synthesis (R79), where the buffer has room for three bytes. -/
theorem storeHeader_inside {s : State} (b : Byte) (h : 3 ≤ s.cfg.bufCap) :
    storeHeader b s = .next { s with dec := { s.dec with
      buffer := ((s.dec.buffer.write 0 DELIM).write 1 s.dec.lenHigh).write 2 b } } := by
  have h0 : 0 < s.cfg.bufCap := by omega
  have h1 : 1 < s.cfg.bufCap := by omega
  have h2 : 2 < s.cfg.bufCap := by omega
  simp [storeHeader, storeByte, h0, h1, h2]

theorem storeHeader_eq_next {s t : State} {b : Byte} (h : storeHeader b s = .next t) :
    3 ≤ s.cfg.bufCap ∧ t = { s with dec := { s.dec with
      buffer := ((s.dec.buffer.write 0 DELIM).write 1 s.dec.lenHigh).write 2 b } } := by
  unfold storeHeader at h
  obtain ⟨s1, h1, h⟩ := andThen_eq_next h
  obtain ⟨s2, h2, h⟩ := andThen_eq_next h
  obtain ⟨-, rfl⟩ := storeByte_eq_next h1
  obtain ⟨-, rfl⟩ := storeByte_eq_next h2
  obtain ⟨h3, rfl⟩ := storeByte_eq_next h
  exact ⟨h3, rfl⟩

/-! ### The dispatcher and the event -/

/-- The consumer writes its own records only: it records E5, drops the frame, or records one callback. -/
theorem dispatchFrame_cases (n : Size) (s : State) :
    (viewOf s.cfg s.dec.buffer n.toNat = none ∧ dispatchFrame n s = { s with labels := s.labels ++ [.unknownType] }) ∨
    (∃ v, viewOf s.cfg s.dec.buffer n.toNat = some v ∧ s.handler = none ∧ dispatchFrame n s = s) ∨
    (∃ v h, viewOf s.cfg s.dec.buffer n.toNat = some v ∧ s.handler = some h ∧
      dispatchFrame n s =
        { s with callbacks := s.callbacks ++ [{ handler := h, view := v, payload := v.payload s.dec.buffer }] }) := by
  unfold dispatchFrame
  cases hv : viewOf s.cfg s.dec.buffer n.toNat with
  | none => exact .inl ⟨rfl, rfl⟩
  | some v =>
    cases hh : s.handler with
    | none => exact .inr (.inl ⟨v, rfl, rfl, rfl⟩)
    | some h => exact .inr (.inr ⟨v, h, rfl, rfl, rfl⟩)

/-- What `frame_ready` leaves alone: everything but the event list, the callbacks and the labels, which only grow
(R143). -/
theorem raiseFrameReady_frame (n : Size) (s : State) :
    ∃ cs ls, raiseFrameReady n s = { s with
      frameReady := s.frameReady ++ [n], callbacks := s.callbacks ++ cs, labels := s.labels ++ ls } := by
  unfold raiseFrameReady
  rcases dispatchFrame_cases n { s with frameReady := s.frameReady ++ [n] } with ⟨-, h⟩ | ⟨v, -, -, h⟩ | ⟨v, k, -, -, h⟩
  · exact ⟨[], [.unknownType], by rw [h]; simp⟩
  · exact ⟨[], [], by rw [h]; simp⟩
  · exact ⟨[{ handler := k, view := v, payload := v.payload s.dec.buffer }], [], by rw [h]; simp⟩

@[simp] theorem raiseFrameReady_dec (n : Size) (s : State) : (raiseFrameReady n s).dec = s.dec := by
  obtain ⟨cs, ls, h⟩ := raiseFrameReady_frame n s; rw [h]
@[simp] theorem raiseFrameReady_cfg (n : Size) (s : State) : (raiseFrameReady n s).cfg = s.cfg := by
  obtain ⟨cs, ls, h⟩ := raiseFrameReady_frame n s; rw [h]
@[simp] theorem raiseFrameReady_enc (n : Size) (s : State) : (raiseFrameReady n s).enc = s.enc := by
  obtain ⟨cs, ls, h⟩ := raiseFrameReady_frame n s; rw [h]
@[simp] theorem raiseFrameReady_fatal (n : Size) (s : State) : (raiseFrameReady n s).fatal = s.fatal := by
  obtain ⟨cs, ls, h⟩ := raiseFrameReady_frame n s; rw [h]
@[simp] theorem raiseFrameReady_transient (n : Size) (s : State) :
    (raiseFrameReady n s).transient = s.transient := by
  obtain ⟨cs, ls, h⟩ := raiseFrameReady_frame n s; rw [h]
@[simp] theorem raiseFrameReady_handler (n : Size) (s : State) : (raiseFrameReady n s).handler = s.handler := by
  obtain ⟨cs, ls, h⟩ := raiseFrameReady_frame n s; rw [h]
@[simp] theorem raiseFrameReady_inputs (n : Size) (s : State) : (raiseFrameReady n s).inputs = s.inputs := by
  obtain ⟨cs, ls, h⟩ := raiseFrameReady_frame n s; rw [h]
@[simp] theorem raiseFrameReady_written (n : Size) (s : State) : (raiseFrameReady n s).written = s.written := by
  obtain ⟨cs, ls, h⟩ := raiseFrameReady_frame n s; rw [h]
@[simp] theorem raiseFrameReady_frameReady (n : Size) (s : State) :
    (raiseFrameReady n s).frameReady = s.frameReady ++ [n] := by
  obtain ⟨cs, ls, h⟩ := raiseFrameReady_frame n s; rw [h]
@[simp] theorem raiseFrameReady_returned (n : Size) (s : State) : (raiseFrameReady n s).returned = s.returned := by
  obtain ⟨cs, ls, h⟩ := raiseFrameReady_frame n s; rw [h]
@[simp] theorem raiseFrameReady_freeCount (n : Size) (s : State) :
    (raiseFrameReady n s).freeCount = s.freeCount := by
  obtain ⟨cs, ls, h⟩ := raiseFrameReady_frame n s; rw [h]

/-! ### The decoder's two structural operations -/

/-- `RX_DATA` (R83), where its store is inside the buffer. -/
theorem takeData_inside {s : State} (v : Byte) (h : s.dec.offset.toNat + 1 < s.cfg.bufCap) :
    takeData v s = .next { s with dec := { s.dec with
      offset := s.dec.offset + 1
      buffer := s.dec.buffer.write (s.dec.offset.toNat + 1) v
      checksumAccumulator := addByte s.dec.checksumAccumulator v } } := by
  rw [takeData, storeByte_inside v h]; rfl

/-- Everything `RX_DATA` can do when it answers next. -/
theorem takeData_eq_next {s t : State} {v : Byte} (h : takeData v s = .next t) :
    s.dec.offset.toNat + 1 < s.cfg.bufCap ∧ t = { s with dec := { s.dec with
      offset := s.dec.offset + 1
      buffer := s.dec.buffer.write (s.dec.offset.toNat + 1) v
      checksumAccumulator := addByte s.dec.checksumAccumulator v } } := by
  obtain ⟨s1, h1, h2⟩ := andThen_eq_next h
  obtain ⟨hi, rfl⟩ := storeByte_eq_next h1
  exact ⟨hi, by injection h2 with h2; exact h2.symm⟩

/-- The state `RX_CSUM` leaves before it raises its event or drops the frame (R84). -/
def endFrame (v : Byte) (s : State) : State :=
  { s with dec := { s.dec with
      offset := s.dec.offset + 1
      buffer := s.dec.buffer.write s.dec.declaredSize.toNat v
      ignoring := true } }

/-- `RX_CSUM` (R84), where its store is inside the buffer. -/
theorem takeChecksum_inside {s : State} (v : Byte) (h : s.dec.declaredSize.toNat < s.cfg.bufCap) :
    takeChecksum v s =
      if checksumMatches s.dec.checksumAccumulator v then .next (raiseFrameReady s.dec.declaredSize (endFrame v s))
      else .next (label .csumMismatch (endFrame v s)) := by
  rw [takeChecksum, storeByte_inside v h]; rfl

/-- Everything `RX_CSUM` can do when it answers next. -/
theorem takeChecksum_eq_next {s t : State} {v : Byte} (h : takeChecksum v s = .next t) :
    s.dec.declaredSize.toNat < s.cfg.bufCap ∧
    ((checksumMatches s.dec.checksumAccumulator v = true ∧
      t = raiseFrameReady s.dec.declaredSize (endFrame v s)) ∨
     (checksumMatches s.dec.checksumAccumulator v = false ∧ t = label .csumMismatch (endFrame v s))) := by
  have hi : s.dec.declaredSize.toNat < s.cfg.bufCap := by
    obtain ⟨s1, h1, -⟩ := andThen_eq_next h
    exact (storeByte_eq_next h1).1
  refine ⟨hi, ?_⟩
  rw [takeChecksum_inside v hi] at h
  cases hm : checksumMatches s.dec.checksumAccumulator v
  · rw [if_neg (by simp [hm])] at h
    exact .inr ⟨rfl, by injection h with h; exact h.symm⟩
  · rw [if_pos hm] at h
    exact .inl ⟨rfl, by injection h with h; exact h.symm⟩

/-- A structural byte is data or the checksum (R75). -/
theorem takeStructural_eq_next {s t : State} {v : Byte} (h : takeStructural v s = .next t) :
    (s.dec.offset.toNat + 1 < s.dec.declaredSize.toNat ∧ takeData v s = .next t) ∨
    (s.dec.declaredSize.toNat ≤ s.dec.offset.toNat + 1 ∧ takeChecksum v s = .next t) := by
  unfold takeStructural beforeChecksum at h
  by_cases hb : s.dec.offset.toNat + 1 < s.dec.declaredSize.toNat
  · exact .inl ⟨hb, by simpa [hb] using h⟩
  · exact .inr ⟨by omega, by simpa [hb] using h⟩

/-! ### Write transactions -/

/-- The transactions `ESC_EMIT(v)` writes (R120). -/
def stuffTxns (v : Byte) : List WriteTxn :=
  if isReserved v then [.byte ESC, .byte (escXor v)] else [.byte v]

theorem escEmit_eq (v : Byte) (s : State) : escEmit v s = { s with written := s.written ++ stuffTxns v } := by
  unfold escEmit stuffTxns
  split <;> simp [out, outPair]

theorem escEmitAll_eq (l : List Byte) (s : State) :
    escEmitAll l s = { s with written := s.written ++ l.flatMap stuffTxns } := by
  induction l generalizing s with
  | nil => simp [escEmitAll]
  | cons v rest ih => simp [escEmitAll, ih, escEmit_eq]

/-- The streaming loop (R125): the bytes stuffed in order, and their sum in `txAcc`. -/
theorem streamData_eq (l : List Byte) (s : State) :
    streamData l s =
      { s with
        written := s.written ++ l.flatMap stuffTxns
        transient := { s.transient with txAcc := l.foldl addByte s.transient.txAcc } } := by
  induction l generalizing s with
  | nil => simp [streamData]
  | cons v rest ih => simp [streamData, ih, escEmit_eq, csAdd_eq, setAcc]

theorem stuffTxns_bytes (v : Byte) : (stuffTxns v).flatMap WriteTxn.bytes = if isReserved v then [ESC, escXor v] else [v] := by
  unfold stuffTxns; split <;> simp [WriteTxn.bytes]

/-! ### Sums -/

theorem addByte_assoc (a b c : Byte) : addByte (addByte a b) c = addByte a (addByte b c) := BitVec.add_assoc a b c
theorem addByte_comm (a b : Byte) : addByte a b = addByte b a := BitVec.add_comm a b
@[simp] theorem zero_addByte (a : Byte) : addByte 0#8 a = a := BitVec.zero_add a
@[simp] theorem addByte_zero (a : Byte) : addByte a 0#8 = a := BitVec.add_zero a

theorem addByte_eq (a b : Byte) : addByte a b = BitVec.ofNat 8 (a.toNat + b.toNat) := by
  apply BitVec.eq_of_toNat_eq; simp [addByte]

/-- A modular sum is the sum of the values, narrowed once at the end (R100 corner case e). -/
theorem sumBytes_eq (f : Nat → Byte) (first n : Nat) :
    sumBytes f first n = BitVec.ofNat 8 ((List.range' first n).map fun i => (f i).toNat).sum := by
  induction n with
  | zero => rfl
  | succ n ih =>
    apply BitVec.eq_of_toNat_eq
    simp [sumBytes, List.range'_concat, ih, addByte_eq]

theorem foldl_addByte_eq (l : List Byte) : l.foldl addByte 0 = BitVec.ofNat 8 (l.map BitVec.toNat).sum := by
  induction l using List.reverseRecOn with
  | nil => rfl
  | append_singleton l v ih =>
    rw [List.foldl_append, ih]
    apply BitVec.eq_of_toNat_eq
    simp [addByte_eq]

theorem checksumMatches_iff (acc v : Byte) : checksumMatches acc v = true ↔ v = 0xFF - acc := by
  simp [checksumMatches, complement]

/-- A sum looks only at the bytes in its range. -/
theorem sumBytes_congr {f g : Nat → Byte} {first count : Nat}
    (h : ∀ i, first ≤ i → i < first + count → f i = g i) : sumBytes f first count = sumBytes g first count := by
  induction count with
  | zero => rfl
  | succ n ih =>
    simp only [sumBytes]
    rw [ih fun i h1 h2 => h i h1 (by omega), h (first + n) (by omega) (by omega)]

/-- A checksum looks only at the bytes in its window. -/
theorem checksumOf_congr {f g : Nat → Byte} {length : Nat} (h : ∀ i, HDR ≤ i → i < length → f i = g i) :
    checksumOf f length = checksumOf g length := by
  unfold checksumOf
  rw [sumBytes_congr fun i h1 h2 => h i h1 (by omega)]

/-- The window of a length of 3 or less is empty (R100 corner case a). -/
theorem checksumOf_of_le {length : Nat} (f : Nat → Byte) (h : length ≤ HDR) : checksumOf f length = 0xFF := by
  rw [checksumOf, Nat.sub_eq_zero_of_le h]
  show complement 0 = 0xFF
  decide

/-- R100 read as one sum of values, narrowed at the end (corner case e). -/
theorem checksumOf_eq (f : Nat → Byte) (length : Nat) :
    checksumOf f length = 0xFF - BitVec.ofNat 8 ((List.range' HDR (length - HDR)).map fun i => (f i).toNat).sum := by
  rw [checksumOf, sumBytes_eq, complement]

/-! ### `CHECKSUM` and the ends of its sequence -/

theorem readsPastEnd_iff (s : State) (buf : CsSource) (length : Nat) :
    s.readsPastEnd buf length = true ↔ HDR < length ∧ s.sourceSize buf < length := decide_eq_true_iff

theorem checksumByte_inside {s : State} {buf : CsSource} {i : Nat} (h : i < s.sourceSize buf) :
    s.checksumByte buf i = s.sourceByte buf i := if_pos h

theorem checksumByte_outside {s : State} {buf : CsSource} {i : Nat} (h : s.sourceSize buf ≤ i) :
    s.checksumByte buf i = Config.freeChecksumByte s.freeCount i := if_neg (Nat.not_lt.mpr h)

theorem foldl_addByte (l : List Byte) (a : Byte) : l.foldl addByte a = addByte a (l.foldl addByte 0) := by
  induction l generalizing a with
  | nil => simp
  | cons v rest ih => simp only [List.foldl_cons]; rw [ih, ih (addByte 0 v), show addByte 0 v = v from zero_addByte v, addByte_assoc]

/-- The sum over a stretch of a list is the sum of its elements. -/
theorem sumBytes_list (pre data post : List Byte) :
    sumBytes (byteAt (pre ++ data ++ post)) pre.length data.length = data.foldl addByte 0 := by
  induction data using List.reverseRecOn generalizing post with
  | nil => rfl
  | append_singleton data v ih =>
    rw [List.length_append, List.length_singleton, sumBytes, List.foldl_append]
    have h1 := ih ([v] ++ post)
    have h2 : pre ++ (data ++ [v]) ++ post = pre ++ data ++ ([v] ++ post) := by simp
    rw [h2, h1]
    congr 1
    simp [byteAt, List.getD_eq_getElem?_getD]

/-- The checksum of a logical frame is the complement of the sum of its data. -/
theorem logicalFrame_eq (data : List Byte) :
    logicalFrame data =
      [DELIM, lengthHighByte data.length, lengthLowByte data.length] ++ data ++ [complement (data.foldl addByte 0)] := by
  have h := sumBytes_list [DELIM, lengthHighByte data.length, lengthLowByte data.length] data []
  rw [List.append_nil] at h
  simp only [logicalFrame, checksumOf, Nat.add_sub_cancel]
  exact congrArg (fun x => _ ++ [complement x]) h

@[simp] theorem logicalFrame_length (data : List Byte) : (logicalFrame data).length = data.length + 4 := by
  simp [logicalFrame_eq]

end Sys2Proof.Machine
end

