-- ==== Sys2Proof/Laws/PerInstr.lean ====
section
/-! SUPPORT. Laws/PerInstr.lean: the families of statements made per operation. -/

/-- Every well-formed operation can be selected: some context R19 allows meets its row's state condition.  No
hypothesis of the decoding statements is empty for any row. -/
def Sys2Proof.Laws.Selectable.Statement (i : Sys2Proof.Instr) : Prop :=
  i.wf = true → ∃ c : Sys2Proof.RxContext,
    (c.ignoring = false → 2 ≤ c.offset.toNat → c.offset.toNat < c.declaredSize.toNat) ∧ i.selectedIn c = true

namespace Sys2Proof.Laws.Selectable

theorem rxHalted (b : Byte) : Statement (.rxHalted b) := fun _ => ⟨{ startContext with fatal := true }, by decide, rfl⟩
theorem rxDelim : Statement .rxDelim := fun _ => ⟨startContext, by decide, rfl⟩
theorem rxIgnored (b : Byte) : Statement (.rxIgnored b) :=
  fun _ => ⟨{ startContext with ignoring := true }, by decide, rfl⟩
theorem rxLenHi (b : Byte) : Statement (.rxLenHi b) := fun _ => ⟨startContext, by decide, rfl⟩
theorem rxLenLo (b : Byte) : Statement (.rxLenLo b) := fun _ =>
  ⟨{ startContext with offset := 1, bufCap := declaredLength 0 b + 4 }, fun _ (h : 2 ≤ 1) => absurd h (by decide), by
    simp [Instr.selectedIn, startContext]⟩
theorem rxLenLoReject (b : Byte) : Statement (.rxLenLoReject b) := fun _ =>
  ⟨{ startContext with offset := 1 }, by decide, by simp [Instr.selectedIn, startContext]⟩
theorem rxUnesc (b : Byte) : Statement (.rxUnesc b) :=
  fun _ => ⟨{ lengthLowContext with escapePending := true }, by decide, rfl⟩
theorem rxEsc : Statement .rxEsc := fun _ => ⟨lengthLowContext, by decide, rfl⟩
theorem rxData (v : Byte) : Statement (.rxData v) :=
  fun _ => ⟨{ lengthLowContext with declaredSize := 4 }, by decide, rfl⟩
theorem rxCsum (v : Byte) : Statement (.rxCsum v) := fun _ => ⟨lengthLowContext, by decide, rfl⟩
theorem txRaw (v : Byte) : Statement (.txRaw v) := fun _ => ⟨startContext, by decide, rfl⟩
theorem txEscaped (v : Byte) : Statement (.txEscaped v) := fun _ => ⟨startContext, by decide, rfl⟩
theorem txPlain (v : Byte) : Statement (.txPlain v) := fun _ => ⟨startContext, by decide, rfl⟩
theorem sendAt (cmd0 cmd1 : Byte) (param : List Byte) : Statement (.sendAt cmd0 cmd1 param) :=
  fun _ => ⟨startContext, by decide, rfl⟩
theorem sendDataRaw (dest : Address) (payload : List Byte) : Statement (.sendDataRaw dest payload) :=
  fun _ => ⟨startContext, by decide, rfl⟩
theorem sendDataEsc (dest : Address) (payload : List Byte) : Statement (.sendDataEsc dest payload) :=
  fun _ => ⟨startContext, by decide, rfl⟩
theorem cmdNone : Statement .cmdNone := fun _ => ⟨startContext, by decide, rfl⟩
theorem checksum (buf : CsSource) (length : Nat) : Statement (.checksum buf length) :=
  fun _ => ⟨startContext, by decide, rfl⟩
theorem csClear (acc : AccSel) : Statement (.csClear acc) := fun _ => ⟨startContext, by decide, rfl⟩
theorem csAdd (acc : AccSel) (v : Byte) : Statement (.csAdd acc v) := fun _ => ⟨startContext, by decide, rfl⟩
theorem csFinal (acc : AccSel) : Statement (.csFinal acc) := fun _ => ⟨startContext, by decide, rfl⟩
theorem escEmit (v : Byte) : Statement (.escEmit v) := fun _ => ⟨startContext, by decide, rfl⟩
theorem fidNext : Statement .fidNext := fun _ => ⟨startContext, by decide, rfl⟩
theorem reset : Statement .reset := fun _ => ⟨startContext, by decide, rfl⟩

end Sys2Proof.Laws.Selectable
end

