-- ==== Sys2Proof/Laws/Step.lean ====
section
/-! SUPPORT. Laws/Step.lean: everything a step can do, and which inputs select which operations. -/

namespace Sys2Proof.Machine

/-! ### Conditions as propositions -/

theorem beforeChecksum_iff (d : Dec) : beforeChecksum d = true ↔ d.offset.toNat + 1 < d.declaredSize.toNat :=
  decide_eq_true_iff
theorem paramFits_iff (c : Config) (l : List Byte) : paramFits c l = true ↔ 8 + l.length ≤ c.atBufCap :=
  decide_eq_true_iff
theorem payloadFits_iff (c : Config) (l : List Byte) : payloadFits c l = true ↔ l.length ≤ c.txMaxN :=
  decide_eq_true_iff
theorem frameFits_iff (length bufCap : Nat) : frameFits length bufCap = true ↔ length + 4 ≤ bufCap :=
  decide_eq_true_iff

/-! ### The step -/

theorem step_cons {s : State} {e : Event} {rest : List Event} (h : s.inputs = e :: rest) :
    step s = runEvent e { s with inputs := rest } := by
  unfold step
  rw [h]

/-- A received byte runs the operation R61 selects. -/
theorem step_rx {s : State} {b : Byte} {rest : List Event} (h : s.inputs = .rx b :: rest) :
    step s = exec (decodeRx s.rxContext b) { s with inputs := rest } := step_cons h

/-- A step without input does nothing, a registration sets the callback slot, and any other step is one operation. -/
theorem step_cases {s t : State} (h : step s = .next t) :
    (s.inputs = [] ∧ t = s) ∨
    (∃ k rest, s.inputs = .register k :: rest ∧ t = { s with inputs := rest, handler := some k }) ∨
    (∃ e rest i, s.inputs = e :: rest ∧ decode s.rxContext e = .ok i ∧ exec i { s with inputs := rest } = .next t) := by
  cases hi : s.inputs with
  | nil =>
    rw [step, hi] at h
    injection h with h
    exact .inl ⟨rfl, h.symm⟩
  | cons e rest =>
    rw [step_cons hi] at h
    unfold runEvent at h
    split at h
    · injection h with h
      exact .inr (.inl ⟨_, _, rfl, h.symm⟩)
    · split at h
      · exact .inr (.inr ⟨_, _, _, rfl, ‹_›, h⟩)
      · cases h

/-! ### What selects `RESET` -/

theorem decodeRx_ne_reset (c : RxContext) (b : Byte) : decodeRx c b ≠ .reset := by
  unfold decodeRx
  split_ifs <;> simp

theorem decodeCmd_ne_reset (p : CmdPort) : decodeCmd p ≠ .reset := by
  unfold decodeCmd
  split_ifs <;> simp

theorem decode_eq_reset {c : RxContext} {e : Event} (h : decode c e = .ok .reset) : e = .reset := by
  cases e with
  | reset => rfl
  | rx b => exact absurd (Except.ok.inj h) (decodeRx_ne_reset c b)
  | cmd p => exact absurd (Except.ok.inj h) (decodeCmd_ne_reset p)
  | register k => cases h
  | tx r i v =>
    simp only [decode, decodeTx] at h
    split_ifs at h <;> simp at h
  | internal i =>
    simp only [decode] at h
    split_ifs at h with hi
    rw [Except.ok.inj h] at hi
    cases hi

end Sys2Proof.Machine
end

