-- ==== Sys2Proof/Laws/Wire.lean ====
section
/-! SUPPORT. Laws/Wire.lean: the frames the encoders write, the bytes on the wire, and feeding received bytes. -/

namespace Sys2Proof.Machine

/-! ### Stuffing -/

theorem isReserved_iff (v : Byte) : isReserved v = true ↔ v = 0x11 ∨ v = 0x13 ∨ v = 0x7D ∨ v = 0x7E := by
  simp [isReserved, RESERVED]

theorem escXor_escXor (v : Byte) : escXor (escXor v) = v := by
  simp [escXor]

/-- `ESC_EMIT` writes the stuffed bytes, one transaction each. -/
theorem stuffTxns_eq (v : Byte) : stuffTxns v = (stuff v).map .byte := by
  unfold stuffTxns stuff
  split <;> rfl

theorem flatMap_stuffTxns (l : List Byte) : l.flatMap stuffTxns = (l.flatMap stuff).map .byte := by
  induction l with
  | nil => rfl
  | cons v rest ih => rw [List.flatMap_cons, List.flatMap_cons, List.map_append, ih, stuffTxns_eq]

/-- A logical frame written with stuffing is its wire frame, one byte a transaction (R50, R120). -/
theorem outStuffed_eq (l : List Byte) (s : State) :
    outStuffed l s = { s with written := s.written ++ (wireFrame l).map .byte } := by
  cases l with
  | nil => simp [outStuffed, wireFrame]
  | cons d rest => simp [outStuffed, wireFrame, escEmitAll_eq, out, flatMap_stuffTxns]

/-- One byte a transaction: the transport sees the bytes in order (R39). -/
theorem bytes_of_byte_txns (l : List Byte) : (l.map WriteTxn.byte).flatMap WriteTxn.bytes = l := by
  induction l with
  | nil => rfl
  | cons v rest ih => rw [List.map_cons, List.flatMap_cons, ih]; rfl

/-! ### Frames -/

/-- The frame the encoders assemble is the frame R51 describes. -/
theorem logicalFrame_eq_specFrame (data : List Byte) : logicalFrame data = specFrame data := by
  rw [logicalFrame_eq, foldl_addByte_eq]
  rfl

@[simp] theorem atData_length (c : Config) (f cmd0 cmd1 : Byte) (param : List Byte) :
    (atData c f cmd0 cmd1 param).length = 4 + param.length := by
  simp [atData]; omega

@[simp] theorem txData_length (c : Config) (dest : Address) (payload : List Byte) :
    (txData c dest payload).length = c.txPre.length + 8 + c.txPost.length + payload.length := by
  simp [txData, bytesBE]; omega

theorem frameIdNext_toNat (f : Byte) : (frameIdNext f).toNat = (f.toNat + 1) % 255 := by
  simp [frameIdNext, FRAME_ID_MOD]
  omega

/-! ### Feeding bytes -/

theorem feed_cons (b : Byte) (l : List Byte) (s : State) :
    feed (b :: l) s = andThen (exec (decodeRx s.rxContext b) s) (feed l) :=
  congrArg (andThen · (feed l)) (step_rx (s := { s with inputs := .rx b :: s.inputs }) rfl)

theorem feed_append (l m : List Byte) (s : State) : feed (l ++ m) s = andThen (feed l s) (feed m) := by
  induction l generalizing s with
  | nil => rfl
  | cons b rest ih =>
    rw [List.cons_append, feed_cons, feed_cons, andThen_assoc]
    congr 1
    funext t
    exact ih t

/-! ### Big-endian numbers (R115) -/

theorem valueBE_concat (l : List Byte) (v : Byte) : valueBE (l ++ [v]) = valueBE l * 256 + v.toNat := by
  simp [valueBE]

theorem valueBE_lt (l : List Byte) : valueBE l < 256 ^ l.length := by
  induction l using List.reverseRecOn with
  | nil => simp [valueBE]
  | append_singleton l v ih =>
    rw [valueBE_concat, List.length_append, List.length_singleton, Nat.pow_succ]
    have := v.isLt
    omega

end Sys2Proof.Machine
end

