-- ==== Sys2Proof/Tests/Slice0.lean ====
section
/-! SUPPORT. Tests/Slice0.lean: well-formedness, decoding of words written out from the spec, one-step tests with expected
values from 95_test_vectors.md (each names its vector), and a witness for the hypotheses of every obligation. -/

namespace Sys2Proof.Tests

open Sys2Proof Sys2Proof.Machine

/-! ### Helpers -/

/-- The next state, if there is one. -/
def next? : Result → Option State
  | .next s => some s
  | .fault _ => none
  | .refused _ => none

/-- The reset state with another decoder. -/
def withDec (d : Dec) : State := { State.reset with dec := d }

/-- One step on one received byte. -/
def rx (d : Dec) (b : Byte) : Option State := next? (step { withDec d with inputs := [.rx b] })

/-- One step on one command. -/
def cmd (s : State) (p : CmdPort) : Option State := next? (step { s with inputs := [.cmd p] })

/-- The reset state with another frame-id counter. -/
def withFrameId (f : Byte) : State := { State.reset with enc := { frameId := f } }

/-- After `7E 00` (V-SRC-1 row 2). -/
def dLengthHigh : Dec := { Dec.fresh with offset := 1 }
/-- After `7E 00 02` (V-SRC-1 row 3). -/
def dLengthLow : Dec := { Dec.fresh with offset := 2, declaredSize := 5, buffer := [(0, 0x7E), (2, 0x02)] }
/-- After `7E 00 02 88` (V-SRC-1 row 4). -/
def dPayload : Dec :=
  { Dec.fresh with
    offset := 3, declaredSize := 5, checksumAccumulator := 0x88, buffer := [(0, 0x7E), (2, 0x02), (3, 0x88)] }
/-- After `7E 00 02 88 01` (V-SRC-1 row 5). -/
def dLast : Dec :=
  { Dec.fresh with
    offset := 4, declaredSize := 5, checksumAccumulator := 0x89
    buffer := [(0, 0x7E), (2, 0x02), (3, 0x88), (4, 0x01)] }
/-- After `7E 00 02 88 01 76` (V-SRC-1 row 6). -/
def dDone : Dec :=
  { Dec.fresh with
    offset := 5, declaredSize := 5, checksumAccumulator := 0x89, ignoring := true
    buffer := [(0, 0x7E), (2, 0x02), (3, 0x88), (4, 0x01), (5, 0x76)] }
/-- After `7E 00 1D`: a length of 29 does not fit 32 bytes (R80). -/
def dRejected : Dec := { Dec.fresh with offset := 2, declaredSize := 32, ignoring := true }

/-! ### Well-formedness: an ill-formed term for each check -/

theorem test_wf_refuses_delimiter_as_ignored : (Instr.rxIgnored 0x7E).wf = false := by decide
theorem test_wf_refuses_delimiter_as_length_high : (Instr.rxLenHi 0x7E).wf = false := by decide
theorem test_wf_refuses_delimiter_as_length_low : (Instr.rxLenLo 0x7E).wf = false := by decide
theorem test_wf_refuses_delimiter_as_rejected_length : (Instr.rxLenLoReject 0x7E).wf = false := by decide
theorem test_wf_refuses_delimiter_after_marker : (Instr.rxUnesc 0x7E).wf = false := by decide
theorem test_wf_refuses_delimiter_and_marker_as_data :
    (Instr.rxData 0x7E).wf = false ∧ (Instr.rxData 0x7D).wf = false := by decide
theorem test_wf_refuses_delimiter_and_marker_as_checksum :
    (Instr.rxCsum 0x7E).wf = false ∧ (Instr.rxCsum 0x7D).wf = false := by decide
theorem test_wf_refuses_escaping_an_unreserved_byte : (Instr.txEscaped 0x12).wf = false := by decide
theorem test_wf_refuses_a_reserved_byte_as_plain :
    [0x11, 0x13, 0x7D, 0x7E].all (fun v => !(Instr.txPlain v).wf) = true := by decide
theorem test_wf_accepts_unescaped_marker_after_marker : (Instr.rxUnesc 0x7D).wf = true := by decide

/-! ### Decoding: one word a row, written out bit by bit from spec/opcode_table.json and R61 to R63 -/

/-- The context a decoder state gives (BUF_CAP = 32). -/
def ctx (d : Dec) : RxContext := (withDec d).rxContext

theorem test_decode_halted : decode { startContext with fatal := true } (.rx 0b01111110) = .ok (.rxHalted 0x7E) := rfl
theorem test_decode_delim : decode (ctx dDone) (.rx 0b01111110) = .ok .rxDelim := rfl
theorem test_decode_ignored : decode (ctx dRejected) (.rx 0b01000001) = .ok (.rxIgnored 0x41) := rfl
theorem test_decode_lenhi : decode (ctx Dec.fresh) (.rx 0b01111101) = .ok (.rxLenHi 0x7D) := rfl
theorem test_decode_lenlo : decode (ctx dLengthHigh) (.rx 0b00011100) = .ok (.rxLenLo 28) := by decide +kernel
theorem test_decode_lenlo_reject : decode (ctx dLengthHigh) (.rx 0b00011101) = .ok (.rxLenLoReject 29) := by decide +kernel
theorem test_decode_unesc :
    decode (ctx { dPayload with escapePending := true }) (.rx 0b01111101) = .ok (.rxUnesc 0x7D) := rfl
theorem test_decode_esc : decode (ctx dLengthLow) (.rx 0b01111101) = .ok .rxEsc := rfl
theorem test_decode_data : decode (ctx dPayload) (.rx 0b00000001) = .ok (.rxData 0x01) := rfl
theorem test_decode_csum : decode (ctx dLast) (.rx 0b01110110) = .ok (.rxCsum 0x76) := rfl
theorem test_decode_raw :
    decode startContext (.tx false 0 0b01111110) = .ok (.txRaw 0x7E) ∧
    decode startContext (.tx true 5 0b00010011) = .ok (.txRaw 0x13) := ⟨rfl, rfl⟩
theorem test_decode_escaped :
    [0b00010001, 0b00010011, 0b01111101, 0b01111110].map (fun v => (decode startContext (.tx false 1 v)).toOption) =
      [some (.txEscaped 0x11), some (.txEscaped 0x13), some (.txEscaped 0x7D), some (.txEscaped 0x7E)] := rfl
theorem test_decode_plain : decode startContext (.tx false 1 0b00010010) = .ok (.txPlain 0x12) := rfl
theorem test_decode_none : decode startContext (.cmd { op := 0b00 }) = .ok .cmdNone := rfl
theorem test_decode_send_at :
    decode startContext (.cmd { op := 0b01, cmd0 := 0x4E, cmd1 := 0x44 }) = .ok (.sendAt 0x4E 0x44 []) := rfl
theorem test_decode_send_data_raw :
    decode startContext (.cmd { op := 0b10, dest := 0xFFFF, bytes := [0x61] }) = .ok (.sendDataRaw 0xFFFF [0x61]) := rfl
theorem test_decode_send_data_esc :
    decode startContext (.cmd { op := 0b11, dest := 0xFFFF, bytes := [0x75] }) = .ok (.sendDataEsc 0xFFFF [0x75]) := rfl
theorem test_decode_primitives :
    [Instr.checksum .decBuffer 5, .csClear .dec, .csAdd .enc 1, .csFinal .dec, .escEmit 0x7E, .fidNext].map
      (fun i => (decode startContext (.internal i)).toOption) =
    [some (Instr.checksum .decBuffer 5), some (.csClear .dec), some (.csAdd .enc 1), some (.csFinal .dec),
      some (.escEmit 0x7E), some .fidNext] := rfl
theorem test_decode_reset : decode { startContext with fatal := true } .reset = .ok .reset := rfl
theorem test_decode_refusals :
    decode startContext (.tx false 0 0x41) = .error .noDelimiterAtIndexZero ∧
    decode startContext (.internal .rxDelim) = .error .notInternal := ⟨rfl, rfl⟩

/-! ### One step each -/

/-- V-DEC-11a: the delimiter leaves `Rejected`; V-DEC-7: it discards a partial frame (E4). -/
theorem test_delim :
    (rx dRejected 0x7E).map (fun t => (t.dec, t.labels)) = some (Dec.fresh, []) ∧
    (rx dPayload 0x7E).map (fun t => (t.dec, t.labels)) = some (Dec.fresh, [.frameAborted]) := by decide
/-- V-DEC-19: 0x7D as length-high is a length value. -/
theorem test_lenhi : (rx Dec.fresh 0x7D).map State.dec = some { Dec.fresh with offset := 1, lenHigh := 0x7D } := by decide
/-- V-SRC-1 row 3. -/
theorem test_lenlo : (rx dLengthHigh 0x02).map State.dec = some dLengthLow := by decide
/-- V-DEC-19: `L = 0x7D00`, rejected, the buffer not written. -/
theorem test_lenlo_reject :
    (rx { dLengthHigh with lenHigh := 0x7D } 0x00).map (fun t => (t.dec, t.frameReady)) =
      some ({ Dec.fresh with offset := 2, declaredSize := 32003, lenHigh := 0x7D, ignoring := true }, []) := by decide
/-- V-DEC-3 row 4: the marker as the first frame byte stores nothing. -/
theorem test_esc : (rx dLengthLow 0x7D).map State.dec = some { dLengthLow with escapePending := true } := by decide
/-- V-DEC-3 row 5. -/
theorem test_unesc_data :
    (rx { dLengthLow with escapePending := true } 0x5E).map State.dec =
      some { Dec.fresh with
        offset := 3, declaredSize := 5, checksumAccumulator := 0x7E
        buffer := [(0, 0x7E), (2, 0x02), (3, 0x7E)] } := by decide
/-- V-DEC-4: an escaped checksum byte, compared after unescaping. -/
theorem test_unesc_csum :
    (rx { dLast with checksumAccumulator := 0x81, escapePending := true } 0x5E).map
      (fun t => (t.frameReady, t.dec.buffer.read 5, t.dec.escapePending)) = some ([5], 0x7E, false) := by decide
/-- V-SRC-1 row 5. -/
theorem test_data : (rx dPayload 0x01).map State.dec = some dLast := by decide
/-- V-DEC-13: the accumulator wraps. -/
theorem test_data_wraps :
    (rx { dPayload with checksumAccumulator := 0xFF } 0x02).map (fun t => t.dec.checksumAccumulator) = some 0x01 := by
  decide
/-- V-SRC-1 row 6 with V-DSP-1: one callback with the view of an AT response. -/
theorem test_csum_match :
    (next? (step { withDec dLast with inputs := [.rx 0x76], handler := some 7 })).map
      (fun t => (t.dec, t.frameReady, t.callbacks)) =
    some (dDone, [5], [{ handler := 7, view := { frameType := 0x88, sourceAddress64 := none, sourceAddress16 := none,
                                                   payloadStart := 5, payloadLength := 0 }, payload := [] }]) := by
  decide
/-- V-SRC-1L: the source's literal is a mismatch; the bad byte (0x00) is stored, nothing is raised. -/
theorem test_csum_mismatch :
    (rx dLast 0x00).map (fun t => (t.dec.offset, t.dec.ignoring, t.dec.buffer.read 5, t.frameReady, t.labels)) =
      some (5, true, 0x00, [], [.csumMismatch]) := by decide
/-- R77: bytes after a frame are ignored. -/
theorem test_ignored : (rx dDone 0x41).map State.dec = some dDone := by decide
/-- V-FAT-1: halted, a delimiter is not looked at. -/
theorem test_halted :
    (next? (step { withDec dDone with fatal := true, inputs := [.rx 0x7E] })).map State.dec = some dDone := by decide

/-- R62, V-ENC-16: a bare reserved byte of the raw encoder. -/
theorem test_tx_raw : (next? (exec (.txRaw 0x13) State.reset)).map State.written = some [.byte 0x13] := by decide
/-- V-SRC-8: 0x11 as `7D 31`. -/
theorem test_tx_escaped :
    (next? (exec (.txEscaped 0x11) State.reset)).map State.written = some [.byte 0x7D, .byte 0x31] := by decide
/-- V-ENC-1. -/
theorem test_tx_plain : (next? (exec (.txPlain 0x5E) State.reset)).map State.written = some [.byte 0x5E] := by decide
/-- V-ENC-1: 0x7E as `7D 5E`, 0x12 as itself. -/
theorem test_esc_emit :
    (next? (exec (.escEmit 0x7E) State.reset)).map State.written = some [.byte 0x7D, .byte 0x5E] ∧
    (next? (exec (.escEmit 0x12) State.reset)).map State.written = some [.byte 0x12] := by decide
/-- V-ENC-2: 254 gives 0, 0 gives 1. -/
theorem test_fid_next :
    (next? (exec .fidNext (withFrameId 254))).map State.enc = some { frameId := 0 } ∧
    (next? (exec .fidNext (withFrameId 0))).map State.enc = some { frameId := 1 } := by decide

/-- V-ENC-5: the frame id 0x11 is stuffed. -/
theorem test_send_at :
    (cmd (withFrameId 0x11) { op := 0b01, cmd0 := 0x4E, cmd1 := 0x44 }).map (fun t => (t.writtenBytes, t.enc.frameId)) =
      some ([0x7E, 0x00, 0x04, 0x08, 0x7D, 0x31, 0x4E, 0x44, 0x54], 18) := by decide
/-- V-ENC-13: `8 + 9 = 17 > 16`: fatal, nothing written, the counter unchanged. -/
theorem test_send_at_oversize :
    (cmd { withFrameId 5 with cfg := { Config.profileP0 with atBufCap := 16 } }
      { op := 0b01, cmd0 := 0x4E, cmd1 := 0x49, bytes := List.replicate 9 0x41 }).map
      (fun t => (t.fatal, t.written, t.enc.frameId)) = some (true, [], 5) := by decide
/-- V-ENC-16: one bulk write of the bare frame. -/
theorem test_send_data_raw :
    (cmd State.reset { op := 0b10, dest := 0x0013A20012345678, bytes := [0x48, 0x69] }).map State.written =
      some [.bulk [0x7E, 0x00, 0x10, 0x10, 0x01, 0x00, 0x13, 0xA2, 0x00, 0x12, 0x34, 0x56, 0x78, 0xFF, 0xFE, 0x00, 0x00,
        0x48, 0x69, 0x77]] := by decide
/-- V-ENC-21: the checksum comes out 0x7E and is stuffed. -/
theorem test_send_data_esc :
    (cmd State.reset { op := 0b11, dest := 0xFFFF, bytes := [0x75] }).map State.writtenBytes =
      some [0x7E, 0x00, 0x0F, 0x10, 0x01, 0x00, 0x00, 0x00, 0x00, 0x00, 0x00, 0xFF, 0xFF, 0xFF, 0xFE, 0x00, 0x00, 0x75,
        0x7D, 0x5E] := by decide
/-- V-ENC-18: the length-low byte 0x13 is stuffed. -/
theorem test_send_data_esc_stuffs_the_length :
    (cmd State.reset { op := 0b11, dest := 0x0013A20012345678, bytes := [0x7D, 0x7E, 0x11, 0x13, 0x5E] }).map
      (fun t => t.writtenBytes.take 4) = some [0x7E, 0x00, 0x7D, 0x33] := by decide
/-- R63: no command. -/
theorem test_cmd_none : cmd State.reset { op := 0b00 } = some State.reset := by decide

/-- V-CS-1, rows 8 and 1. -/
theorem test_checksum :
    (next? (exec (.checksum (.bytes [0x7E, 0x00, 0x02, 0x88, 0x01]) 5) State.reset)).map State.returned = some (some 0x76) ∧
    (next? (exec (.checksum (.bytes [0x7E, 0x00, 0x00]) 3) State.reset)).map State.returned = some (some 0xFF) := by decide
/-- R100 corner case (a): no byte is read for a length of 3 or less, whatever the sequence holds. -/
theorem test_checksum_empty_window :
    (next? (exec (.checksum (.bytes []) 3) State.reset)).map (fun t => (t.returned, t.freeCount)) = some (some 0xFF, 0) ∧
    (next? (exec (.checksum .encBuffer 1) State.reset)).map (fun t => (t.returned, t.freeCount)) = some (some 0xFF, 0) := by
  decide
/-- V-CS-2, row 1. -/
theorem test_cs_clear : (next? (exec (.csClear .dec) (withDec dDone))).map (fun t => t.acc .dec) = some 0x00 := by decide
/-- V-CS-2: the carry is discarded. -/
theorem test_cs_add :
    (next? (exec (.csAdd .dec 0xFF) (withDec { Dec.fresh with checksumAccumulator := 0xFF }))).map (fun t => t.acc .dec) =
      some 0xFE := by decide
/-- V-CS-2: 0x89 gives 0x76, the accumulator unchanged. -/
theorem test_cs_final :
    (next? (exec (.csFinal .dec) (withDec dDone))).map (fun t => (t.returned, t.acc .dec)) = some (some 0x76, 0x89) := by
  decide
/-- V-RST-1, V-RST-2. -/
theorem test_reset :
    (next? (step { withDec dDone with fatal := true, enc := { frameId := 200 }, inputs := [.reset] })).map
      (fun t => (t.dec, t.enc.frameId, t.fatal, t.written)) = some (Dec.fresh, 1, false, []) := by decide
/-- V-DSP-4: the addresses as big-endian numbers. -/
theorem test_view :
    viewOf Config.profileP0
      [(0, 0x7E), (2, 0x0E), (3, 0x90), (5, 0x13), (6, 0xA2), (8, 0x12), (9, 0x34), (10, 0x56), (11, 0x78), (12, 0xAB),
       (13, 0xCD), (14, 0x01), (15, 0x48), (16, 0x69), (17, 0x7C)] 17 =
    some { frameType := 0x90, sourceAddress64 := some 0x0013A20012345678, sourceAddress16 := some 0xABCD,
           payloadStart := 15, payloadLength := 2 } := by decide
/-- V-DSP-6, V-DSP-8: frames too short for their type. -/
theorem test_no_view :
    viewOf Config.profileP0 [(0, 0x7E), (2, 0x02), (3, 0x90), (4, 0x01), (5, 0x6E)] 5 = none ∧
    viewOf Config.profileP0 [(0, 0x7E), (2, 0x01), (3, 0x88), (4, 0x77)] 4 = none := by decide

/-! ### Witnesses: states that meet the invariant -/

theorem above_of {d : Dec} (h : ∀ c ∈ d.buffer, c.1 ≤ max d.offset.toNat 2) :
    ∀ i, max d.offset.toNat 2 < i → d.buffer.read i = 0 := fun _ hi => Memory.read_of_above h hi

theorem inv_fresh : Dec.Inv Config.profileP0 Dec.fresh where
  memory := by decide
  fresh := fun _ => ⟨rfl, rfl, rfl, rfl, fun _ => rfl⟩
  sized := by decide
  live := fun _ h => absurd h (by decide)
  escape := by decide
  ignored := fun h => absurd h (by decide)
  above := above_of (by decide)
  rejected := fun h => absurd h (by decide)

theorem inv_lengthHigh : Dec.Inv Config.profileP0 dLengthHigh where
  memory := by decide
  fresh := fun _ => ⟨rfl, rfl, rfl, rfl, fun _ => rfl⟩
  sized := by decide
  live := fun _ h => absurd h (by decide)
  escape := by decide
  ignored := fun h => absurd h (by decide)
  above := above_of (by decide)
  rejected := fun h => absurd h (by decide)

theorem inv_lengthLow : Dec.Inv Config.profileP0 dLengthLow where
  memory := by decide
  fresh := fun h => absurd h (by decide)
  sized := by decide
  live := fun _ _ => ⟨by decide, by decide, ⟨rfl, by decide⟩, by decide⟩
  escape := by decide
  ignored := fun h => absurd h (by decide)
  above := above_of (by decide)
  rejected := fun h => absurd h (by decide)

theorem inv_payload : Dec.Inv Config.profileP0 dPayload where
  memory := by decide
  fresh := fun h => absurd h (by decide)
  sized := by decide
  live := fun _ _ => ⟨by decide, by decide, ⟨rfl, by decide⟩, by decide⟩
  escape := by decide
  ignored := fun h => absurd h (by decide)
  above := above_of (by decide)
  rejected := fun h => absurd h (by decide)

theorem inv_last : Dec.Inv Config.profileP0 dLast where
  memory := by decide
  fresh := fun h => absurd h (by decide)
  sized := by decide
  live := fun _ _ => ⟨by decide, by decide, ⟨rfl, by decide⟩, by decide⟩
  escape := by decide
  ignored := fun h => absurd h (by decide)
  above := above_of (by decide)
  rejected := fun h => absurd h (by decide)

theorem inv_done : Dec.Inv Config.profileP0 dDone where
  memory := by decide
  fresh := fun h => absurd h (by decide)
  sized := by decide
  live := fun h => absurd h (by decide)
  escape := by decide
  ignored := fun _ => ⟨rfl, .inr ⟨rfl, by decide, by decide, ⟨rfl, by decide⟩, by decide⟩⟩
  above := above_of (by decide)
  rejected := fun _ h => absurd h (by decide)

theorem inv_rejected : Dec.Inv Config.profileP0 dRejected where
  memory := by decide
  fresh := fun h => absurd h (by decide)
  sized := by decide
  live := fun h => absurd h (by decide)
  escape := by decide
  ignored := fun _ => ⟨rfl, .inl ⟨rfl, by decide⟩⟩
  above := above_of (by decide)
  rejected := fun _ _ _ => rfl

theorem valid_profileP0 : Config.profileP0.Valid := by decide

/-- The reset state with a decoder state and one received byte to come. -/
def facing (d : Dec) (b : Byte) : State := { withDec d with inputs := [.rx b] }

theorem inv_facing {d : Dec} (h : Dec.Inv Config.profileP0 d) (b : Byte) : (facing d b).Inv where
  config := valid_profileP0
  decoder := h
  counter := by show (1 : Nat) ≤ 254; decide
  inputs := by simp [facing, Event.external]

/-! ### Witnesses: decode and the step -/

theorem witness_DecodeOfEncodeIsIdentity :
    ((Instr.rxLenLo 28).wf = true ∧ (Instr.rxLenLo 28).selectedIn (ctx dLengthHigh) = true) ∧
    ((Instr.rxLenLoReject 29).wf = true ∧ (Instr.rxLenLoReject 29).selectedIn (ctx dLengthHigh) = true) := by
  decide +kernel
theorem witness_ReceivedByteSelectsExactlyItsRow :
    lengthLowContext.ignoring = false ∧ 2 ≤ lengthLowContext.offset.toNat ∧
      lengthLowContext.offset.toNat < lengthLowContext.declaredSize.toNat := by decide
theorem witness_CommandSelectDecodes :
    (0b00 : BitVec 2) ≠ 0b01 ∧ (0b01 : BitVec 2) ≠ 0b10 ∧ (0b10 : BitVec 2) ≠ 0b11 ∧
      ∀ op : BitVec 2, ∃ p : CmdPort, p.op = op := ⟨by decide, by decide, by decide, fun op => ⟨{ op := op }, rfl⟩⟩
theorem witness_TransmitByteDecodes :
    (∃ v : Byte, v = 0x11 ∨ v = 0x13 ∨ v = 0x7D ∨ v = 0x7E) ∧
    (∃ v : Byte, ¬(v = 0x11 ∨ v = 0x13 ∨ v = 0x7D ∨ v = 0x7E)) ∧ ∃ index : Nat, 1 ≤ index :=
  ⟨⟨0x11, by decide⟩, ⟨0x12, by decide⟩, ⟨1, by decide⟩⟩
theorem witness_StepRunsTheDecodedOperation :
    (facing dDone 0x7E).inputs = .rx 0x7E :: [] ∧ decode (facing dDone 0x7E).rxContext (.rx 0x7E) = .ok .rxDelim :=
  ⟨rfl, rfl⟩
theorem witness_StepWithoutOperation :
    State.reset.inputs = [] ∧ { State.reset with inputs := [.register 7] }.inputs = .register 7 :: [] := ⟨rfl, rfl⟩

/-! ### Witnesses: the decoder -/

/-- The one hypothesis `fatal = false`, which `RxLenHiStashesTheByte`, `RxLenLoRejectsAnOversizeFrame`,
`RxEscSetsThePendingEscape`, `CsClearZeroesTheAccumulator`, `CsAddAddsModulo256`, `CsFinalReturnsTheComplement`,
`EscEmitStuffsReservedBytes` and `TransmitStagesWriteTheirBytes` share. -/
theorem witness_not_halted : State.reset.fatal = false := rfl
/-- A frame in progress and none: both cases of the label. -/
theorem witness_RxDelimClearsTheDecoder :
    ((withDec dPayload).fatal = false ∧ (withDec dPayload).dec.ignoring = false ∧ (withDec dPayload).dec.offset ≠ 0) ∧
    ((withDec dDone).fatal = false ∧ ¬((withDec dDone).dec.ignoring = false ∧ (withDec dDone).dec.offset ≠ 0)) := by
  decide
/-- Exactly full: 28 + 4 = 32. -/
theorem witness_RxLenLoAcceptsAFrameThatFits :
    (withDec dLengthHigh).fatal = false ∧ Memory.wf (withDec dLengthHigh).dec.buffer = true ∧
      (withDec dLengthHigh).dec.lenHigh.toNat * 256 + (28 : Byte).toNat + 4 ≤ (withDec dLengthHigh).cfg.bufCap := by
  decide +kernel
theorem witness_RxUnescContinuesUnescaped :
    ((withDec dPayload).fatal = false ∧
      (withDec dPayload).dec.offset.toNat + 1 < (withDec dPayload).dec.declaredSize.toNat) ∧
    ((withDec dLast).fatal = false ∧
      ¬(withDec dLast).dec.offset.toNat + 1 < (withDec dLast).dec.declaredSize.toNat) := by decide
/-- A buffer of 6 bytes is exactly filled by V-SRC-1. -/
def tight (d : Dec) : State := { withDec d with cfg := { Config.profileP0 with bufCap := 6 } }
theorem witness_RxUnescStoresTheUnescapedByte :
    (tight dPayload).fatal = false ∧ Memory.wf (tight dPayload).dec.buffer = true ∧
      (tight dPayload).dec.offset.toNat + 1 < (tight dPayload).dec.declaredSize.toNat ∧
      (tight dPayload).dec.offset.toNat + 1 < (tight dPayload).cfg.bufCap := by decide
theorem witness_RxDataStoresAndAccumulates :
    (tight dLengthLow).fatal = false ∧ Memory.wf (tight dLengthLow).dec.buffer = true ∧
      (tight dLengthLow).dec.offset.toNat + 1 < (tight dLengthLow).dec.declaredSize.toNat ∧
      (tight dLengthLow).dec.offset.toNat + 1 < (tight dLengthLow).cfg.bufCap := by decide
theorem witness_RxCsumMatchRaisesFrameReady :
    (tight dLast).fatal = false ∧ Memory.wf (tight dLast).dec.buffer = true ∧
      (tight dLast).dec.offset.toNat + 1 = (tight dLast).dec.declaredSize.toNat ∧
      (tight dLast).dec.declaredSize.toNat < (tight dLast).cfg.bufCap ∧
      (0x76 : Byte) = 0xFF - (tight dLast).dec.checksumAccumulator := by decide
theorem witness_RxCsumMismatchIsSilent :
    (tight dLast).fatal = false ∧ Memory.wf (tight dLast).dec.buffer = true ∧
      (tight dLast).dec.offset.toNat + 1 = (tight dLast).dec.declaredSize.toNat ∧
      (tight dLast).dec.declaredSize.toNat < (tight dLast).cfg.bufCap ∧
      (0x77 : Byte) ≠ 0xFF - (tight dLast).dec.checksumAccumulator := by decide

/-! ### Witnesses: the checksum engine -/

theorem witness_ChecksumIsTheComplementedSum :
    State.reset.fatal = false ∧ (3 ≤ 3 ∧ State.reset.sourceSize .encBuffer < 3) ∧
      (32 ≤ State.reset.sourceSize .decBuffer ∧
        5 ≤ State.reset.sourceSize (.bytes [0x7E, 0x00, 0x02, 0x88, 0x01])) ∧
      (3 < 4 ∧ State.reset.sourceSize .encBuffer < 4 ∧ 3 < 33 ∧ State.reset.sourceSize .decBuffer < 33) := by decide
/-- A buffer of 4 bytes and a decoder that claims more, one of 5 at the checksum, one of 2 at the length. -/
theorem witness_IndicesThatDoNotExistFault :
    let s : State := { withDec dPayload with cfg := { Config.profileP0 with bufCap := 4 } }
    let u : State := { withDec dLast with cfg := { Config.profileP0 with bufCap := 5 } }
    let w : State := { withDec dLengthHigh with cfg := { Config.profileP0 with bufCap := 2 } }
    (s.fatal = false ∧ s.cfg.bufCap ≤ s.dec.offset.toNat + 1 ∧ s.dec.offset.toNat + 1 < s.dec.declaredSize.toNat) ∧
    (u.fatal = false ∧ u.cfg.bufCap ≤ u.dec.declaredSize.toNat ∧ u.dec.declaredSize.toNat ≤ u.dec.offset.toNat + 1) ∧
    (w.fatal = false ∧ w.cfg.bufCap ≤ 2) := by decide
theorem witness_BulkChecksumEqualsIncremental :
    7 ≤ max 3 [0x7E, 0x00, 0x04, 0x08, 0x01, 0x4E, (0x44 : Byte)].length ∧
      [0x44, 0x4E, 0x01, (0x08 : Byte)].Perm (([0x7E, 0x00, 0x04, 0x08, 0x01, 0x4E, (0x44 : Byte)].take 7).drop 3) := by
  decide

/-! ### Witnesses: the encoders -/

theorem witness_FidNextCountsModulo255 :
    ((withFrameId 254).fatal = false ∧ (withFrameId 254).enc.frameId = 254) ∧
    ((withFrameId 253).fatal = false ∧ (withFrameId 253).enc.frameId.toNat < 254) := by decide
theorem witness_CommandFramesCycleTheFrameId :
    State.reset.cfg.Valid ∧ State.reset.fatal = false ∧ State.reset.enc.frameId = 1 := by decide
theorem witness_SendAtWritesTheStuffedFrame :
    State.reset.cfg.Valid ∧ State.reset.fatal = false ∧ State.reset.cfg.atEscape = true ∧
      8 + (List.replicate 24 (0x41 : Byte)).length ≤ State.reset.cfg.atBufCap := by decide
theorem witness_SendAtWritesTheBareFrame :
    let s : State := { State.reset with cfg := { Config.profileP0 with atEscape := false } }
    s.cfg.Valid ∧ s.fatal = false ∧ s.cfg.atEscape = false ∧
      8 + (List.replicate 24 (0x41 : Byte)).length ≤ s.cfg.atBufCap := by decide
theorem witness_SendDataRawWritesTheFrameInBulk :
    State.reset.fatal = false ∧ (List.replicate 100 (0 : Byte)).length ≤ State.reset.cfg.txMaxN := by decide
theorem witness_SendDataEscStreamsTheStuffedFrame :
    State.reset.fatal = false ∧ (List.replicate 100 (0 : Byte)).length ≤ State.reset.cfg.txMaxN := by decide
theorem witness_OversizeCommandsAreFatal :
    (State.reset.fatal = false ∧ State.reset.cfg.atBufCap < 8 + (List.replicate 25 (0 : Byte)).length) ∧
    (State.reset.fatal = false ∧ State.reset.cfg.txMaxN < (List.replicate 101 (0 : Byte)).length) := by decide
theorem witness_RawEqualsEscapedIffNothingReserved :
    State.reset.fatal = false ∧ [(0x61 : Byte)].length ≤ State.reset.cfg.txMaxN ∧
      (∃ t, exec (.sendDataRaw 0xFFFF [0x61]) State.reset = .next t) ∧
      ∃ u, exec (.sendDataEsc 0xFFFF [0x61]) State.reset = .next u := ⟨rfl, by decide, ⟨_, rfl⟩, ⟨_, rfl⟩⟩

/-! ### Witnesses: the whole machine -/

theorem witness_ResetStateMeetsTheInvariant : Config.profileP0.Valid := valid_profileP0
theorem witness_EveryStepKeepsTheInvariant : (facing dLast 0x76).Inv ∧ ∃ t, step (facing dLast 0x76) = .next t :=
  ⟨inv_facing inv_last _, ⟨_, rfl⟩⟩
theorem witness_EveryStepAnswersNext : (facing dPayload 0x7D).Inv := inv_facing inv_payload _
theorem witness_DecoderIsAlwaysInANamedState : (facing dRejected 0x41).Inv := inv_facing inv_rejected _
/-- Each of the six names. -/
theorem witness_ReceivedByteFollowsTheTransitionTable :
    ∀ n : DecName, ∃ s : State, s.Inv ∧ s.fatal = false ∧ s.inputs = .rx 0x41 :: [] ∧ s.dec.name? = some n := by
  intro n
  cases n
  · exact ⟨facing Dec.fresh 0x41, inv_facing inv_fresh _, rfl, rfl, by decide⟩
  · exact ⟨facing dLengthHigh 0x41, inv_facing inv_lengthHigh _, rfl, rfl, by decide⟩
  · exact ⟨facing dLengthLow 0x41, inv_facing inv_lengthLow _, rfl, rfl, by decide⟩
  · exact ⟨facing dPayload 0x41, inv_facing inv_payload _, rfl, rfl, by decide⟩
  · exact ⟨facing dDone 0x41, inv_facing inv_done _, rfl, rfl, by decide⟩
  · exact ⟨facing dRejected 0x41, inv_facing inv_rejected _, rfl, rfl, by decide⟩
theorem witness_FatalHaltsEveryOperation :
    Instr.fidNext ≠ .reset ∧ { State.reset with fatal := true }.fatal = true := ⟨by decide, rfl⟩
theorem witness_OnlyResetClearsFatal :
    let s : State := { State.reset with fatal := true, inputs := [.reset] }
    s.fatal = true ∧ ∃ t, step s = .next t ∧ t.fatal = false := ⟨rfl, _, rfl, rfl⟩
theorem witness_EachUnitWritesItsOwnState :
    (encode (.rxData 0x01) = .rx 0x01 ∧ ∃ t, exec (.rxData 0x01) (withDec dPayload) = .next t) ∧
    (∃ p, encode (.sendAt 0x4E 0x44 []) = .cmd p) ∧ ∃ t, exec (.sendAt 0x4E 0x44 []) (withDec dPayload) = .next t :=
  ⟨⟨rfl, _, rfl⟩, ⟨_, rfl⟩, ⟨_, rfl⟩⟩
theorem witness_UnitsDoNotReadEachOther :
    (encode (.rxCsum 0x76) = .rx 0x76 ∧ ∃ t, exec (.rxCsum 0x76) (withDec dLast) = .next t) ∧
    (∃ p, encode (.sendDataEsc 0xFFFF [0x75]) = .cmd p) ∧
    ∃ t, exec (.sendDataEsc 0xFFFF [0x75]) (withDec dLast) = .next t :=
  ⟨⟨rfl, _, rfl⟩, ⟨_, rfl⟩, ⟨_, rfl⟩⟩
theorem witness_OnlyTheChecksumByteRaisesFrameReady :
    ∃ t, exec (.rxCsum 0x76) (withDec dLast) = .next t ∧ t.frameReady ≠ (withDec dLast).frameReady :=
  ⟨_, rfl, by decide⟩
theorem witness_OutputsAreOnlyAppended : ∃ t, step (facing dLast 0x76) = .next t := ⟨_, rfl⟩
theorem witness_EveryOperationKeepsTheMemoryCanonical :
    Memory.wf (withDec dPayload).dec.buffer = true ∧ ∃ t, exec (.rxData 0x00) (withDec dPayload) = .next t :=
  ⟨by decide, _, rfl⟩

/-! ### Witnesses: sequences of received bytes -/

theorem witness_DelimiterAlwaysResynchronises : (facing dPayload 0x41).Inv ∧ (facing dPayload 0x41).fatal = false :=
  ⟨inv_facing inv_payload _, rfl⟩
theorem witness_FrameIsStableUntilTheNextDelimiter :
    (withDec dDone).dec.ignoring = true ∧ ∀ b ∈ [0x41, (0x7D : Byte)], b ≠ 0x7E := by decide
theorem witness_AtMostOneFramePerDelimiter :
    (∀ b ∈ [0x76, (0x41 : Byte)], b ≠ 0x7E) ∧ ∃ t, feed [0x76, 0x41] (withDec dLast) = .next t := ⟨by decide, _, rfl⟩
/-- The last data byte and the checksum byte. -/
theorem witness_EscapePairStoresOneByte :
    ((facing dPayload 0x41).Inv ∧ (facing dPayload 0x41).fatal = false ∧ (facing dPayload 0x41).dec.ignoring = false ∧
      2 ≤ (facing dPayload 0x41).dec.offset.toNat ∧ (facing dPayload 0x41).dec.escapePending = false ∧
      (0x5E : Byte) ≠ 0x7E) ∧
    ((facing dLast 0x41).Inv ∧ (facing dLast 0x41).fatal = false ∧ (facing dLast 0x41).dec.ignoring = false ∧
      2 ≤ (facing dLast 0x41).dec.offset.toNat ∧ (facing dLast 0x41).dec.escapePending = false) :=
  ⟨⟨inv_facing inv_payload _, rfl, rfl, by decide, rfl, by decide⟩, inv_facing inv_last _, rfl, rfl, by decide, rfl⟩
theorem witness_FrameReadyHandsOverAValidFrame :
    (facing dLast 0x76).Inv ∧ ∃ t, step (facing dLast 0x76) = .next t ∧
      t.frameReady = (facing dLast 0x76).frameReady ++ [5] := ⟨inv_facing inv_last _, _, rfl, by decide⟩
/-- The largest and the smallest frame that fits. -/
theorem witness_WireFrameIsAlwaysDecoded :
    ∀ data ∈ [List.replicate 28 (0x11 : Byte), []],
      (withDec dDone).cfg.Valid ∧ (withDec dDone).fatal = false ∧ data.length + 4 ≤ (withDec dDone).cfg.bufCap ∧
      BitVec.ofNat 8 (data.length / 256) ∉ RESERVED ∧ BitVec.ofNat 8 data.length ∉ RESERVED := by decide
theorem witness_StreamedDataFrameRoundTrips :
    let payload := List.replicate 14 (0x7E : Byte)
    State.reset.cfg.Valid ∧ State.reset.fatal = false ∧ payload.length ≤ State.reset.cfg.txMaxN ∧
      (txData State.reset.cfg 0xFFFF payload).length + 4 ≤ State.reset.cfg.bufCap ∧
      BitVec.ofNat 8 ((txData State.reset.cfg 0xFFFF payload).length / 256) ∉ RESERVED ∧
      BitVec.ofNat 8 (txData State.reset.cfg 0xFFFF payload).length ∉ RESERVED := by decide
theorem witness_CommandFrameRoundTrips :
    let param := List.replicate 24 (0x7D : Byte)
    State.reset.cfg.Valid ∧ State.reset.fatal = false ∧ State.reset.cfg.atEscape = true ∧
      8 + param.length ≤ State.reset.cfg.atBufCap ∧ 8 + param.length ≤ State.reset.cfg.bufCap ∧
      BitVec.ofNat 8 (4 + param.length) ∉ RESERVED := by decide

/-! ### Witnesses: the consumer -/

theorem witness_ViewOfAnAtResponse : Memory.read dLast.buffer 3 = 0x88 ∧ 5 ≤ 5 := by decide
theorem witness_ViewOfAReceiveIndicator :
    Config.profileP0.Valid ∧ (Memory.read [(3, 0x91)] 3 = Config.profileP0.ftRxExplicit ∧ 21 ≤ 21) ∧
      (Memory.read [(3, 0x90)] 3 = Config.profileP0.ftRxNet ∧ 15 ≤ 15) := by decide
theorem witness_NoViewOfAnUnknownOrShortFrame :
    Config.profileP0.Valid ∧
    (Memory.read [(3, 0x8A)] 3 ≠ 0x88 ∧ Memory.read [(3, 0x8A)] 3 ≠ Config.profileP0.ftRxExplicit ∧
      Memory.read [(3, 0x8A)] 3 ≠ Config.profileP0.ftRxNet) ∧
    (Memory.read [(3, 0x88)] 3 = 0x88 ∧ 4 < 5) ∧
    (Memory.read [(3, 0x91)] 3 = Config.profileP0.ftRxExplicit ∧ 20 < 21) ∧
    (Memory.read [(3, 0x90)] 3 = Config.profileP0.ftRxNet ∧ 14 < 15) := by decide
/-- A handler and a view; no handler; an unknown type (V-DSP-5, checksum 0x6F). -/
theorem witness_HandlerIsInvokedOncePerRecognisedFrame :
    let handled : State := { withDec dLast with handler := some 7 }
    let unknown : State := withDec { dLast with
      checksumAccumulator := 0x90, buffer := [(0, 0x7E), (2, 0x02), (3, 0x8A), (4, 0x06)] }
    (handled.fatal = false ∧ (0x76 : Byte) = 0xFF - handled.dec.checksumAccumulator ∧ handled.handler = some 7 ∧
      ∃ t, exec (.rxCsum 0x76) handled = .next t ∧
        (viewOf handled.cfg t.dec.buffer handled.dec.declaredSize.toNat).isSome = true) ∧
    ((withDec dLast).handler = none ∧ ∃ t, exec (.rxCsum 0x76) (withDec dLast) = .next t ∧
      (viewOf (withDec dLast).cfg t.dec.buffer (withDec dLast).dec.declaredSize.toNat).isSome = true) ∧
    (unknown.fatal = false ∧ (0x6F : Byte) = 0xFF - unknown.dec.checksumAccumulator ∧
      ∃ t, exec (.rxCsum 0x6F) unknown = .next t ∧
        viewOf unknown.cfg t.dec.buffer unknown.dec.declaredSize.toNat = none) :=
  ⟨⟨rfl, by decide, rfl, _, rfl, by decide⟩, ⟨rfl, _, rfl, by decide⟩, rfl, by decide, _, rfl, by decide⟩

end Sys2Proof.Tests
end

section
/-! PROOFS. The escape operations of the decoder (R81, R82): the meanings of `RX_ESC`, `RX_UNESC`, `RX_DATA` and `RX_CSUM`
while the block is not halted, and the two statements. -/

namespace Sys2Proof.Machine

/-! ### The meanings while `fatal = 0` -/

theorem exec_rxEsc_of_safe {s : State} (h : s.fatal = false) : exec .rxEsc s = .next (setEscape true s) :=
  unlessHalted_of_safe h _

theorem exec_rxUnesc_of_safe {s : State} (h : s.fatal = false) (b : Byte) :
    exec (.rxUnesc b) s = takeStructural (escXor b) (setEscape false s) :=
  unlessHalted_of_safe h _

theorem exec_rxData_of_safe {s : State} (h : s.fatal = false) (v : Byte) : exec (.rxData v) s = takeData v s :=
  unlessHalted_of_safe h _

theorem exec_rxCsum_of_safe {s : State} (h : s.fatal = false) (v : Byte) : exec (.rxCsum v) s = takeChecksum v s :=
  unlessHalted_of_safe h _

/-- The end of R75 is one of the two operations of R61 priorities 7 and 8, chosen by the position in the frame. -/
theorem takeStructural_eq_exec {s : State} (h : s.fatal = false) (v : Byte) :
    takeStructural v s =
      exec (if s.dec.offset.toNat + 1 < s.dec.declaredSize.toNat then .rxData v else .rxCsum v) s := by
  by_cases hdata : s.dec.offset.toNat + 1 < s.dec.declaredSize.toNat
  · rw [if_pos hdata, exec_rxData_of_safe h, takeStructural, if_pos ((beforeChecksum_iff _).2 hdata)]
  · rw [if_neg hdata, exec_rxCsum_of_safe h, takeStructural, if_neg (mt (beforeChecksum_iff _).1 hdata)]

/-! ### The statements -/

/-- Settles O13: while the block is not halted, `RX_ESC` is `setEscape true` and nothing more (R81). -/
theorem rxEscSetsThePendingEscape : Obligations.RxEscSetsThePendingEscape :=
  fun _ hsafe => exec_rxEsc_of_safe hsafe

/-- Settles O14: clearing the flag moves neither `offset` nor `declaredSize`, so the position in the frame that chooses
between data and checksum is the one `RX_UNESC` started from (R82). -/
theorem rxUnescContinuesUnescaped : Obligations.RxUnescContinuesUnescaped := by
  intro s b hsafe
  have hcleared : (setEscape false s).fatal = false := hsafe
  rw [exec_rxUnesc_of_safe hsafe]
  exact takeStructural_eq_exec hcleared (escXor b)

end Sys2Proof.Machine
end

section
/-! PROOFS. The checksum primitives that write an accumulator (R101, R102): the meanings of `CS_CLEAR` and `CS_ADD` while
the block is not halted, the addition modulo 256, and the two statements. -/

namespace Sys2Proof.Machine

/-! ### The meanings while `fatal = 0` -/

theorem exec_csClear_of_safe {s : State} (h : s.fatal = false) (acc : AccSel) :
    exec (.csClear acc) s = .next (setAcc acc 0 s) :=
  unlessHalted_of_safe h _

theorem exec_csAdd_of_safe {s : State} (h : s.fatal = false) (acc : AccSel) (v : Byte) :
    exec (.csAdd acc v) s = .next (setAcc acc (addByte (s.acc acc) v) s) :=
  unlessHalted_of_safe h _

/-! ### The addition of R102 -/

theorem addByte_eq_ofNat_mod (a v : Byte) : addByte a v = BitVec.ofNat 8 ((a.toNat + v.toNat) % 256) :=
  BitVec.eq_of_toNat_eq (by simp [addByte])

/-! ### The statements -/

/-- Settles O21: while the block is not halted, `CS_CLEAR` is `setAcc` with 0, which writes one register (R101). -/
theorem csClearZeroesTheAccumulator : Obligations.CsClearZeroesTheAccumulator :=
  fun _ hsafe => ⟨exec_csClear_of_safe hsafe .dec, exec_csClear_of_safe hsafe .enc⟩

/-- Settles O22: while the block is not halted, `CS_ADD` is `setAcc` with the 8-bit sum, and 8-bit addition is addition
modulo 256 (R102). -/
theorem csAddAddsModulo256 : Obligations.CsAddAddsModulo256 := by
  intro s v hsafe
  simp only [← addByte_eq_ofNat_mod]
  exact ⟨exec_csAdd_of_safe hsafe .dec v, exec_csAdd_of_safe hsafe .enc v⟩

end Sys2Proof.Machine
end

section
/-! PROOFS. The encoder primitives (R120, R121): the meanings of `ESC_EMIT` and `FID_NEXT` while the block is not halted,
the values of the frame-id counter, and the two statements. -/

namespace Sys2Proof.Machine

/-! ### The meanings while `fatal = 0` -/

theorem exec_escEmit_of_safe {s : State} (h : s.fatal = false) (v : Byte) :
    exec (.escEmit v) s = .next { s with written := s.written ++ stuffTxns v } := by
  rw [← escEmit_eq]
  exact unlessHalted_of_safe h _

theorem exec_fidNext_of_safe {s : State} (h : s.fatal = false) :
    exec .fidNext s = .next { s with enc := { frameId := frameIdNext s.enc.frameId } } :=
  unlessHalted_of_safe h _

/-! ### The stuffing of R120 and the counter of R121 -/

theorem stuffTxns_eq_ite (v : Byte) :
    stuffTxns v =
      if v = 0x11 ∨ v = 0x13 ∨ v = 0x7D ∨ v = 0x7E then [.byte 0x7D, .byte (v ^^^ 0x20)] else [.byte v] :=
  if_congr (isReserved_iff v) rfl rfl

/-- The counter wraps after 254, so the value 255 is skipped (R121). -/
theorem frameIdNext_of_eq_254 {f : Byte} (h : f = 254) : frameIdNext f = 0 := by
  subst h
  decide

theorem frameIdNext_toNat_of_lt_254 {f : Byte} (h : f.toNat < 254) : (frameIdNext f).toNat = f.toNat + 1 := by
  rw [frameIdNext_toNat]
  exact Nat.mod_eq_of_lt (by omega)

/-! ### The statements -/

/-- Settles O26: while the block is not halted, `ESC_EMIT` appends the transactions of `stuffTxns`, which are a pair for
the four reserved values (R120). -/
theorem escEmitStuffsReservedBytes : Obligations.EscEmitStuffsReservedBytes := by
  intro s v hsafe
  rw [← stuffTxns_eq_ite]
  exact exec_escEmit_of_safe hsafe v

/-- Settles O28: while the block is not halted, `FID_NEXT` writes `frameIdNext` of the counter, the successor modulo 255
(R121). -/
theorem fidNextCountsModulo255 : Obligations.FidNextCountsModulo255 :=
  fun s hsafe => ⟨frameIdNext s.enc.frameId, exec_fidNext_of_safe hsafe, frameIdNext_toNat _,
    frameIdNext_of_eq_254, frameIdNext_toNat_of_lt_254⟩

end Sys2Proof.Machine
end

section
/-! PROOFS. Decoding (R57, R61 to R63): one rule for each priority of R61, and the statements about the decoder and the
encoder. -/

namespace Sys2Proof

/-! ### The priorities of R61, one rule each -/

theorem decodeRx_of_fatal {c : RxContext} (h : c.fatal = true) (b : Byte) : decodeRx c b = .rxHalted b := by
  simp [decodeRx, h]

section
variable {c : RxContext} {b : Byte} (hsafe : c.fatal = false)
include hsafe

theorem decodeRx_delim : decodeRx c DELIM = .rxDelim := by
  simp [decodeRx, hsafe]

theorem decodeRx_marker (hlive : c.ignoring = false) (hcounted : 2 ≤ c.offset.toNat) (hbare : c.escapePending = false) :
    decodeRx c ESC = .rxEsc := by
  obtain ⟨h0, h1⟩ := (Machine.offset_ge_two _).1 hcounted
  simp [decodeRx, hsafe, hlive, h0, h1, hbare]

variable (hb : b ≠ DELIM)
include hb

theorem decodeRx_of_ignoring (h : c.ignoring = true) : decodeRx c b = .rxIgnored b := by
  simp only [decodeRx, hsafe, hb, h, Bool.false_eq_true, ↓reduceIte]

variable (hlive : c.ignoring = false)
include hlive

theorem decodeRx_of_offset_zero (h : c.offset = 0) : decodeRx c b = .rxLenHi b := by
  simp only [decodeRx, hsafe, hb, hlive, h, Bool.false_eq_true, ↓reduceIte]

theorem decodeRx_of_fits (h : c.offset = 1) (hfit : declaredLength c.lenHigh b + 4 ≤ c.bufCap) :
    decodeRx c b = .rxLenLo b := by
  simp [decodeRx, hsafe, show ¬b = 126#8 from hb, hlive, h, frameFits, hfit]

theorem decodeRx_of_oversize (h : c.offset = 1) (hover : c.bufCap < declaredLength c.lenHigh b + 4) :
    decodeRx c b = .rxLenLoReject b := by
  simp [decodeRx, hsafe, show ¬b = 126#8 from hb, hlive, h, frameFits, Nat.not_le.mpr hover]

variable (hcounted : 2 ≤ c.offset.toNat)
include hcounted

theorem decodeRx_of_escapePending (h : c.escapePending = true) : decodeRx c b = .rxUnesc b := by
  obtain ⟨h0, h1⟩ := (Machine.offset_ge_two _).1 hcounted
  simp [decodeRx, hsafe, show ¬b = 126#8 from hb, hlive, h0, h1, h]

variable (hbare : c.escapePending = false)
include hbare

variable (hmark : b ≠ ESC)
include hmark

theorem decodeRx_of_before (h : c.offset.toNat + 1 < c.declaredSize.toNat) : decodeRx c b = .rxData b := by
  obtain ⟨h0, h1⟩ := (Machine.offset_ge_two _).1 hcounted
  simp [decodeRx, hsafe, show ¬b = 126#8 from hb, hlive, h0, h1, hbare, show ¬b = 125#8 from hmark, h]

theorem decodeRx_of_last (h : c.declaredSize.toNat ≤ c.offset.toNat + 1) : decodeRx c b = .rxCsum b := by
  obtain ⟨h0, h1⟩ := (Machine.offset_ge_two _).1 hcounted
  simp [decodeRx, hsafe, show ¬b = 126#8 from hb, hlive, h0, h1, hbare, show ¬b = 125#8 from hmark, Nat.not_lt.mpr h]

end

/-! ### A received byte and its row -/

/-- The well-formed operation whose row holds is the one R61 selects on its byte. -/
theorem decodeRx_of_selectedIn {c : RxContext} {b : Byte} {i : Instr} (hwf : i.wf = true)
    (hsel : i.selectedIn c = true) (henc : encode i = .rx b) : decodeRx c b = i := by
  cases i <;> cases henc <;>
    simp only [Instr.wf, notDelim, notDelimNorMarker, Instr.selectedIn, Bool.and_eq_true, Bool.not_eq_true', bne_iff_ne,
      beq_iff_eq, decide_eq_true_eq] at hwf hsel
  case rxHalted => exact decodeRx_of_fatal hsel b
  case rxDelim => exact decodeRx_delim hsel
  case rxIgnored =>
    obtain ⟨hsafe, hignoring⟩ := hsel
    exact decodeRx_of_ignoring hsafe hwf hignoring
  case rxLenHi =>
    obtain ⟨⟨hsafe, hlive⟩, hzero⟩ := hsel
    exact decodeRx_of_offset_zero hsafe hwf hlive hzero
  case rxLenLo =>
    obtain ⟨⟨⟨hsafe, hlive⟩, hone⟩, hfit⟩ := hsel
    exact decodeRx_of_fits hsafe hwf hlive hone hfit
  case rxLenLoReject =>
    obtain ⟨⟨⟨hsafe, hlive⟩, hone⟩, hover⟩ := hsel
    exact decodeRx_of_oversize hsafe hwf hlive hone hover
  case rxUnesc =>
    obtain ⟨⟨⟨hsafe, hlive⟩, hcounted⟩, hpending⟩ := hsel
    exact decodeRx_of_escapePending hsafe hwf hlive hcounted hpending
  case rxEsc =>
    obtain ⟨⟨⟨hsafe, hlive⟩, hcounted⟩, hbare⟩ := hsel
    exact decodeRx_marker hsafe hlive hcounted hbare
  case rxData =>
    obtain ⟨hdelim, hmark⟩ := hwf
    obtain ⟨⟨⟨⟨hsafe, hlive⟩, hcounted⟩, hbare⟩, hbefore⟩ := hsel
    exact decodeRx_of_before hsafe hdelim hlive hcounted hbare hmark hbefore
  case rxCsum =>
    obtain ⟨hdelim, hmark⟩ := hwf
    obtain ⟨⟨⟨⟨hsafe, hlive⟩, hcounted⟩, hbare⟩, hlast⟩ := hsel
    exact decodeRx_of_last hsafe hdelim hlive hcounted hbare hmark (Nat.le_of_eq hlast.symm)

/-- The operation R61 selects is well formed, its row holds, and its byte is the one received. -/
theorem decodeRx_selected {c : RxContext} (hinv : c.ignoring = false → 2 ≤ c.offset.toNat →
      c.offset.toNat < c.declaredSize.toNat) (b : Byte) :
    (decodeRx c b).wf = true ∧ (decodeRx c b).selectedIn c = true ∧ encode (decodeRx c b) = .rx b := by
  have hlast : c.ignoring = false → 2 ≤ c.offset.toNat → c.declaredSize.toNat ≤ c.offset.toNat + 1 →
      c.offset.toNat + 1 = c.declaredSize.toNat := fun hlive hcounted _ => by
    have := hinv hlive hcounted
    omega
  unfold decodeRx
  split_ifs <;>
    simp_all [Instr.wf, Instr.selectedIn, encode, notDelim, notDelimNorMarker, frameFits, Machine.offset_ge_two]

/-! ### The statements -/

/-- Settles O1: each row of a received byte is one priority of R61; the other ports name their operation. -/
theorem decodeOfEncodeIsIdentity : Obligations.DecodeOfEncodeIsIdentity := by
  intro c i hwf hsel
  cases i with
  | rxHalted | rxDelim | rxIgnored | rxLenHi | rxLenLo | rxLenLoReject | rxUnesc | rxEsc | rxData | rxCsum =>
    exact congrArg Except.ok (decodeRx_of_selectedIn hwf hsel rfl)
  | txEscaped v => simp_all [Instr.wf, encode, decode, decodeTx, isReserved]
  | txPlain v => simp_all [Instr.wf, encode, decode, decodeTx, isReserved]
  | txRaw | sendAt | sendDataRaw | sendDataEsc | cmdNone | checksum | csClear | csAdd | csFinal | escEmit | fidNext
  | reset => rfl

/-- Settles O2: R61 selects an operation whose row holds, and the row and the byte leave no other. -/
theorem receivedByteSelectsExactlyItsRow : Obligations.ReceivedByteSelectsExactlyItsRow := by
  intro c b i hinv
  constructor
  · intro hdec
    obtain rfl : decodeRx c b = i := Except.ok.inj hdec
    exact decodeRx_selected hinv b
  · rintro ⟨hwf, hsel, henc⟩
    exact congrArg Except.ok (decodeRx_of_selectedIn hwf hsel henc)

/-- Settles O3: each select value is one branch of R63. -/
theorem commandSelectDecodes : Obligations.CommandSelectDecodes := by
  intro c p
  refine ⟨?_, ?_, ?_, ?_⟩ <;> intro h <;> simp [decode, decodeCmd, h]

/-- Settles O4: the raw encoder and index 0 take the first two branches of R62, membership in RESERVED the others. -/
theorem transmitByteDecodes : Obligations.TransmitByteDecodes := by
  intro c v
  refine ⟨fun index => rfl, rfl, fun index hindex => ?_⟩
  have hne : index ≠ 0 := by omega
  simp only [← Machine.isReserved_iff]
  exact ⟨fun h => by simp [decode, decodeTx, hne, h], fun h => by simp [decode, decodeTx, hne, h]⟩

/-- Settles O5: the words and the contexts are fixed, so the decoder is run on them. -/
theorem tableWordsDecode : Obligations.TableWordsDecode := by
  exact ⟨rfl, rfl, rfl, rfl, rfl, rfl, rfl,
    congrArg Except.ok (decodeRx_of_fits rfl (by decide) rfl rfl (by decide)), rfl, rfl⟩

end Sys2Proof
end

section
/-! PROOFS. One operation at a time (R7, R76 to R85, R160): the meanings of the length and delimiter operations while
the block is not halted, what each store leaves in the buffer, and the statements about a single step or operation. -/

namespace Sys2Proof.Machine

/-! ### The meanings while `fatal = 0` -/

theorem exec_rxDelim_of_safe {s : State} (h : s.fatal = false) :
    exec .rxDelim s = .next (clearDecoder (if frameInProgress s.dec then label .frameAborted s else s)) :=
  unlessHalted_of_safe h _

theorem exec_rxLenHi_of_safe {s : State} (h : s.fatal = false) (b : Byte) :
    exec (.rxLenHi b) s = .next { s with dec := { s.dec with offset := 1, lenHigh := b } } :=
  unlessHalted_of_safe h _

theorem exec_rxLenLo_of_safe {s : State} (h : s.fatal = false) (b : Byte) :
    exec (.rxLenLo b) s = storeHeader b (takeLengthLow b s) :=
  unlessHalted_of_safe h _

theorem exec_rxLenLoReject_of_safe {s : State} (h : s.fatal = false) (b : Byte) :
    exec (.rxLenLoReject b) s = .next (label .rxOversize (ignoreRest (takeLengthLow b s))) :=
  unlessHalted_of_safe h _

/-! ### What the operations leave in the decoder -/

theorem frameInProgress_iff (d : Dec) : frameInProgress d = true ↔ d.ignoring = false ∧ d.offset ≠ 0 := by
  simp [frameInProgress]

/-- The decoder an accepted length leaves (R79). -/
def Dec.accept (b : Byte) (d : Dec) : Dec :=
  { d with
    offset := 2
    declaredSize := declaredSizeOf (declaredLength d.lenHigh b)
    buffer := ((d.buffer.write 0 DELIM).write 1 d.lenHigh).write 2 b }

/-- The decoder a rejected length leaves (R80). -/
def Dec.reject (b : Byte) (d : Dec) : Dec :=
  { d with offset := 2, declaredSize := declaredSizeOf (declaredLength d.lenHigh b), ignoring := true }

/-- The decoder a data byte leaves (R83). -/
def Dec.take (v : Byte) (d : Dec) : Dec :=
  { d with
    offset := d.offset + 1
    buffer := d.buffer.write (d.offset.toNat + 1) v
    checksumAccumulator := addByte d.checksumAccumulator v }

theorem exec_rxLenLo_inside {s : State} (h : s.fatal = false) (b : Byte) (hcap : 3 ≤ s.cfg.bufCap) :
    exec (.rxLenLo b) s = .next { s with dec := s.dec.accept b } := by
  rw [exec_rxLenLo_of_safe h]
  exact storeHeader_inside b hcap

theorem takeData_eq_take {s : State} (v : Byte) (h : s.dec.offset.toNat + 1 < s.cfg.bufCap) :
    takeData v s = .next { s with dec := s.dec.take v } :=
  takeData_inside v h

theorem Dec.accept_read {d : Dec} (hm : d.buffer.wf) (b : Byte) (a : Nat) :
    (d.accept b).buffer.read a =
      if a = 0 then DELIM else if a = 1 then d.lenHigh else if a = 2 then b else d.buffer.read a := by
  have h0 := Memory.wf_write hm 0 DELIM
  rw [Dec.accept, Memory.read_write (Memory.wf_write h0 1 _), Memory.read_write h0, Memory.read_write hm]
  grind

theorem Dec.take_read {d : Dec} (hm : d.buffer.wf) (v : Byte) (a : Nat) :
    (d.take v).buffer.read a = if a = d.offset.toNat + 1 then v else d.buffer.read a :=
  Memory.read_write hm _ v a

theorem endFrame_read {s : State} (hm : s.dec.buffer.wf) (v : Byte) (a : Nat) :
    (endFrame v s).dec.buffer.read a = if a = s.dec.declaredSize.toNat then v else s.dec.buffer.read a :=
  Memory.read_write hm _ v a

/-! ### Stores at indices that do not exist (log 11) -/

theorem takeData_outside {s : State} (v : Byte) (h : s.cfg.bufCap ≤ s.dec.offset.toNat + 1) :
    takeData v s = .fault (.bufferIndexOutOfRange (s.dec.offset.toNat + 1)) := by
  rw [takeData, storeByte_outside v h, andThen_fault]

theorem takeChecksum_outside {s : State} (v : Byte) (h : s.cfg.bufCap ≤ s.dec.declaredSize.toNat) :
    takeChecksum v s = .fault (.bufferIndexOutOfRange s.dec.declaredSize.toNat) := by
  rw [takeChecksum, storeByte_outside v h, andThen_fault]

theorem exec_rxData_outside {s : State} (hsafe : s.fatal = false) (v : Byte)
    (h : s.cfg.bufCap ≤ s.dec.offset.toNat + 1) :
    exec (.rxData v) s = .fault (.bufferIndexOutOfRange (s.dec.offset.toNat + 1)) :=
  (exec_rxData_of_safe hsafe v).trans (takeData_outside v h)

theorem exec_rxCsum_outside {s : State} (hsafe : s.fatal = false) (v : Byte)
    (h : s.cfg.bufCap ≤ s.dec.declaredSize.toNat) :
    exec (.rxCsum v) s = .fault (.bufferIndexOutOfRange s.dec.declaredSize.toNat) :=
  (exec_rxCsum_of_safe hsafe v).trans (takeChecksum_outside v h)

/-- The header is stored in order, so the first index that does not exist is `BUF_CAP` itself. -/
theorem storeHeader_outside {s : State} (b : Byte) (h : s.cfg.bufCap ≤ 2) :
    storeHeader b s = .fault (.bufferIndexOutOfRange s.cfg.bufCap) := by
  obtain h | h | h : s.cfg.bufCap = 0 ∨ s.cfg.bufCap = 1 ∨ s.cfg.bufCap = 2 := by omega
  all_goals simp [storeHeader, storeByte, h]

/-! ### The statements about a step -/

/-- Settles O6: an input that selects an operation is no registration, so the step is `exec` of it. -/
theorem stepRunsTheDecodedOperation : Obligations.StepRunsTheDecodedOperation := by
  intro s e rest i hin hdec
  rw [step_cons hin]
  cases e with
  | register k => cases hdec
  | rx | cmd | reset | tx | internal =>
    simp only [runEvent, show State.rxContext { s with inputs := rest } = s.rxContext from rfl, hdec]

/-- Settles O7: no input leaves the state, and a registration is `registerHandler`. -/
theorem stepWithoutOperation : Obligations.StepWithoutOperation := by
  refine ⟨fun s hin => ?_, fun s k rest hin => step_cons hin⟩
  rw [step, hin]

/-! ### The statements about the decoder's operations -/

/-- Settles O8: `clearDecoder` writes the reset values over the decoder, and only a frame in progress is labelled. -/
theorem rxDelimClearsTheDecoder : Obligations.RxDelimClearsTheDecoder := by
  intro s hsafe
  refine ⟨_, exec_rxDelim_of_safe hsafe, ?_⟩
  simp only [← frameInProgress_iff]
  cases frameInProgress s.dec
  · exact ⟨rfl, rfl, rfl, rfl, rfl, rfl, fun _ => rfl, rfl, (List.append_nil _).symm⟩
  · exact ⟨rfl, rfl, rfl, rfl, rfl, rfl, fun _ => rfl, rfl, rfl⟩

/-- Settles O9: the three meanings are the identity. -/
theorem ignoredHaltedAndNoneChangeNothing : Obligations.IgnoredHaltedAndNoneChangeNothing :=
  fun _ _ => ⟨rfl, rfl, rfl⟩

/-- Settles O10: while the block is not halted, `RX_LENHI` writes two registers (R78). -/
theorem rxLenHiStashesTheByte : Obligations.RxLenHiStashesTheByte :=
  fun _ b hsafe => exec_rxLenHi_of_safe hsafe b

/-- Settles O11: a frame that fits leaves room for the header, and 17 bits hold `L + 3` exactly (R53, R79). -/
theorem rxLenLoAcceptsAFrameThatFits : Obligations.RxLenLoAcceptsAFrameThatFits := by
  intro s b hsafe hm hfit
  exact ⟨_, _, exec_rxLenLo_inside hsafe b (by omega), declaredSizeOf_toNat _ _, Dec.accept_read hm b⟩

/-- Settles O12: `takeLengthLow`, `ignoreRest` and the label write what R80 names. -/
theorem rxLenLoRejectsAnOversizeFrame : Obligations.RxLenLoRejectsAnOversizeFrame :=
  fun _ b hsafe => ⟨_, exec_rxLenLoReject_of_safe hsafe b, declaredSizeOf_toNat _ _⟩

/-- Settles O16: the new offset does not wrap, because it is below `declaredSize` (R83). -/
theorem rxDataStoresAndAccumulates : Obligations.RxDataStoresAndAccumulates := by
  intro s v hsafe hm hbefore hcap
  refine ⟨(s.dec.take v).buffer, s.dec.offset + 1, ?_, succ_toNat (Nat.le_of_lt hbefore), Dec.take_read hm v⟩
  rw [exec_rxData_of_safe hsafe, takeData_inside v hcap, addByte_eq]
  rfl

/-- Settles O15: `RX_UNESC` before the checksum is `RX_DATA` of the unescaped byte with the flag cleared (O14, O16). -/
theorem rxUnescStoresTheUnescapedByte : Obligations.RxUnescStoresTheUnescapedByte := by
  intro s b hsafe hm hbefore hcap
  rw [rxUnescContinuesUnescaped s b hsafe, if_pos hbefore]
  exact rxDataStoresAndAccumulates { s with dec := { s.dec with escapePending := false } } _ hsafe hm hbefore hcap

/-- Settles O17: the matching byte ends the frame, and `raiseFrameReady` appends to the records alone (R84, R143). -/
theorem rxCsumMatchRaisesFrameReady : Obligations.RxCsumMatchRaisesFrameReady := by
  intro s v hsafe hm hlast hcap hv
  obtain ⟨cs, ls, hraise⟩ := raiseFrameReady_frame s.dec.declaredSize (endFrame v s)
  refine ⟨(endFrame v s).dec.buffer, cs, ls, ?_, endFrame_read hm v⟩
  rw [exec_rxCsum_of_safe hsafe, takeChecksum_inside v hcap, if_pos ((checksumMatches_iff _ _).2 hv), hraise]
  simp only [endFrame, succ_eq hlast]

/-- Settles O18: any other byte ends the frame too, and only the label E2 is added (R84, R145). -/
theorem rxCsumMismatchIsSilent : Obligations.RxCsumMismatchIsSilent := by
  intro s v hsafe hm hlast hcap hv
  refine ⟨(endFrame v s).dec.buffer, ?_, endFrame_read hm v⟩
  rw [exec_rxCsum_of_safe hsafe, takeChecksum_inside v hcap, if_neg (mt (checksumMatches_iff _ _).1 hv)]
  simp only [endFrame, label, succ_eq hlast]

/-- Settles O20: each of the four operations begins with its store, which faults outside the buffer. -/
theorem indicesThatDoNotExistFault : Obligations.IndicesThatDoNotExistFault := by
  intro s v hsafe
  have hcleared : (setEscape false s).fatal = false := hsafe
  refine ⟨exec_rxData_outside hsafe v, exec_rxCsum_outside hsafe v, fun hbefore h => ?_, fun hlast h => ?_, fun h => ?_⟩
  · rw [rxUnescContinuesUnescaped s v hsafe, if_pos hbefore]
    exact exec_rxData_outside hcleared _ h
  · rw [rxUnescContinuesUnescaped s v hsafe, if_neg (Nat.not_lt.mpr hlast)]
    exact exec_rxCsum_outside hcleared _ h
  · rw [exec_rxLenLo_of_safe hsafe]
    exact storeHeader_outside v h

/-! ### Reset -/

/-- Settles O36: `RESET` is `clearDecoder` and the two registers of R160. -/
theorem resetRestoresTheResetValues : Obligations.ResetRestoresTheResetValues :=
  fun _ => ⟨_, rfl, rfl, rfl, rfl, rfl, rfl, rfl, fun _ => rfl, rfl, rfl, rfl⟩

end Sys2Proof.Machine
end

section
/-! PROOFS. The checksum engine (R100 to R104): the meanings of `CHECKSUM` and `CS_FINAL` while the block is not halted,
and the bulk function as a sum over a list. -/

namespace Sys2Proof.Machine

/-! ### The meanings while `fatal = 0` -/

theorem exec_checksum_of_safe {s : State} (h : s.fatal = false) (buf : CsSource) (length : Nat) :
    exec (.checksum buf length) s = .next { s with
      returned := some (checksumOf (s.checksumByte buf) length)
      freeCount := if s.readsPastEnd buf length then s.freeCount + 1 else s.freeCount } :=
  unlessHalted_of_safe h _

theorem exec_csFinal_of_safe {s : State} (h : s.fatal = false) (acc : AccSel) :
    exec (.csFinal acc) s = .next { s with returned := some (complement (s.acc acc)) } :=
  unlessHalted_of_safe h _

/-! ### The complement and the window -/

theorem complement_eq (acc : Byte) : complement acc = BitVec.ofNat 8 (0xFF - acc.toNat) := by
  have := acc.isLt
  apply BitVec.eq_of_toNat_eq
  simp [complement, BitVec.toNat_sub]
  omega

/-- The order of the additions does not matter (R104 item 1). -/
theorem foldl_addByte_perm {l m : List Byte} (h : l.Perm m) : l.foldl addByte 0 = m.foldl addByte 0 := by
  rw [foldl_addByte_eq, foldl_addByte_eq, (h.map BitVec.toNat).sum_eq]

/-- The bulk function over a list is the incremental one over the bytes of its window. -/
theorem checksumOf_byteAt {buf : List Byte} {length : Nat} (h : length ≤ max 3 buf.length) :
    checksumOf (byteAt buf) length = complement (((buf.take length).drop 3).foldl addByte 0) := by
  by_cases hshort : length ≤ 3
  · rw [checksumOf_of_le _ hshort, List.drop_eq_nil_of_le (by simp; omega)]
    decide
  · have hsplit : (buf.take length).take 3 ++ (buf.take length).drop 3 ++ buf.drop length = buf := by
      rw [List.take_append_drop, List.take_append_drop]
    have hsum := sumBytes_list ((buf.take length).take 3) ((buf.take length).drop 3) (buf.drop length)
    have hpre : ((buf.take length).take 3).length = 3 := by simp; omega
    have hlen : ((buf.take length).drop 3).length = length - 3 := by simp; omega
    rw [hsplit, hpre, hlen] at hsum
    rw [checksumOf, hsum]

/-! ### The statements -/

/-- Settles O19: a short length reads nothing, a length within the source reads the source alone, and past its end the
free bytes of log 18 take the place of the missing ones. -/
theorem checksumIsTheComplementedSum : Obligations.ChecksumIsTheComplementedSum := by
  intro s buf length hsafe
  rw [exec_checksum_of_safe hsafe]
  refine ⟨fun hshort => ?_, fun hin => ?_, fun hlong hout => ⟨Config.freeChecksumByte s.freeCount, ?_⟩⟩
  · have hpast : ¬s.readsPastEnd buf length = true := fun h => Nat.not_lt.mpr hshort ((readsPastEnd_iff _ _ _).1 h).1
    rw [checksumOf_of_le _ hshort, if_neg hpast]
  · have hpast : ¬s.readsPastEnd buf length = true := fun h => Nat.not_lt.mpr hin ((readsPastEnd_iff _ _ _).1 h).2
    have hsource : checksumOf (s.checksumByte buf) length = checksumOf (s.sourceByte buf) length :=
      checksumOf_congr fun i _ hi => checksumByte_inside (Nat.lt_of_lt_of_le hi hin)
    rw [hsource, checksumOf_eq, if_neg hpast]
  · rw [checksumOf_eq, if_pos ((readsPastEnd_iff _ _ _).2 ⟨hlong, hout⟩)]
    rfl

/-- Settles O23: 0xFF minus a byte never borrows, so it is the difference of the values (R103). -/
theorem csFinalReturnsTheComplement : Obligations.CsFinalReturnsTheComplement := by
  intro s hsafe
  simp only [← complement_eq]
  exact ⟨exec_csFinal_of_safe hsafe .dec, exec_csFinal_of_safe hsafe .enc⟩

/-- Settles O24: the bulk function is the sum of its window, and a sum does not depend on the order. -/
theorem bulkChecksumEqualsIncremental : Obligations.BulkChecksumEqualsIncremental := by
  intro buf order length hlen hperm
  rw [checksumOf_byteAt hlen, foldl_addByte_perm hperm]

/-- Settles O25: `v = 0xFF - acc`, read as numbers. -/
theorem validationIdentity : Obligations.ValidationIdentity := by
  intro acc v
  rw [checksumMatches_iff]
  bv_omega

end Sys2Proof.Machine
end

section
/-! PROOFS. The encoders (R62, R120 to R130): what a send command and a transmit stage leave, the frames they write, and
the statements about them. -/

namespace Sys2Proof.Machine

/-! ### The transmit stages -/

theorem exec_txRaw_of_safe {s : State} (h : s.fatal = false) (v : Byte) :
    exec (.txRaw v) s = .next { s with written := s.written ++ [.byte v] } :=
  unlessHalted_of_safe h _

theorem exec_txEscaped_of_safe {s : State} (h : s.fatal = false) (v : Byte) :
    exec (.txEscaped v) s = .next { s with written := s.written ++ [.byte ESC, .byte (escXor v)] } := by
  refine (unlessHalted_of_safe h _).trans ?_
  simp [outPair, out]

theorem exec_txPlain_of_safe {s : State} (h : s.fatal = false) (v : Byte) :
    exec (.txPlain v) s = .next { s with written := s.written ++ [.byte v] } :=
  unlessHalted_of_safe h _

/-! ### The send commands, accepted and refused -/

/-- The state of a send command that wrote the transactions `w`: the encoder's transients hold free values (log 4). -/
def sent (w : List WriteTxn) (s : State) : State :=
  { s with
    written := s.written ++ w
    transient := { txAcc := Config.freeTxAcc s.freeCount, txBuf := Config.freeTxBuf s.freeCount }
    freeCount := s.freeCount + 1 }

/-- The write transactions of the local command frame: stuffed byte by byte, or in bulk (R122). -/
def atTxns (c : Config) (frame : List Byte) : List WriteTxn :=
  if c.atEscape then (wireFrame frame).map .byte else [.bulk frame]

/-- The wire bytes of a frame: its delimiter raw, every later byte stuffed. -/
theorem wireFrame_cons (d : Byte) (l : List Byte) : wireFrame (d :: l) = d :: l.flatMap stuff := rfl

theorem exec_sendAt_of_fits {s : State} (h : s.fatal = false) (cmd0 cmd1 : Byte) {param : List Byte}
    (hfit : 8 + param.length ≤ s.cfg.atBufCap) :
    exec (.sendAt cmd0 cmd1 param) s =
      .next (fidNext (sent (atTxns s.cfg (specFrame (atData s.cfg s.enc.frameId cmd0 cmd1 param))) s)) := by
  refine (unlessHalted_of_safe h _).trans ?_
  rw [if_pos ((paramFits_iff _ _).2 hfit), ← logicalFrame_eq_specFrame]
  cases hesc : s.cfg.atEscape
  · simp [hesc, csClear_eq, atTxns]
    rfl
  · simp [hesc, csClear_eq, atTxns, outStuffed_eq]
    rfl

theorem exec_sendAt_of_oversize {s : State} (h : s.fatal = false) (cmd0 cmd1 : Byte) {param : List Byte}
    (hover : s.cfg.atBufCap < 8 + param.length) :
    exec (.sendAt cmd0 cmd1 param) s = .next (raiseFatal .txParamOversize s) := by
  refine (unlessHalted_of_safe h _).trans (if_neg ?_)
  rw [paramFits_iff]
  omega

theorem exec_sendDataRaw_of_fits {s : State} (h : s.fatal = false) (dest : Address) {payload : List Byte}
    (hfit : payload.length ≤ s.cfg.txMaxN) :
    exec (.sendDataRaw dest payload) s = .next (sent [.bulk (specFrame (txData s.cfg dest payload))] s) := by
  refine (unlessHalted_of_safe h _).trans ?_
  rw [if_pos ((payloadFits_iff _ _).2 hfit), ← logicalFrame_eq_specFrame]
  rfl

theorem exec_sendDataRaw_of_oversize {s : State} (h : s.fatal = false) (dest : Address) {payload : List Byte}
    (hover : s.cfg.txMaxN < payload.length) :
    exec (.sendDataRaw dest payload) s = .next (raiseFatal .txPayloadOversize s) := by
  refine (unlessHalted_of_safe h _).trans (if_neg ?_)
  rw [payloadFits_iff]
  omega

theorem exec_sendDataEsc_of_fits {s : State} (h : s.fatal = false) (dest : Address) {payload : List Byte}
    (hfit : payload.length ≤ s.cfg.txMaxN) :
    exec (.sendDataEsc dest payload) s =
      .next (sent ((wireFrame (specFrame (txData s.cfg dest payload))).map .byte) s) := by
  refine (unlessHalted_of_safe h _).trans ?_
  rw [if_pos ((payloadFits_iff _ _).2 hfit), ← logicalFrame_eq_specFrame, logicalFrame_eq]
  simp [escEmit_eq, streamData_eq, csClear_eq, csFinal, endCommand, sent, setAcc, out, wireFrame_cons, stuffTxns_eq,
    flatMap_stuffTxns]

theorem exec_sendDataEsc_of_oversize {s : State} (h : s.fatal = false) (dest : Address) {payload : List Byte}
    (hover : s.cfg.txMaxN < payload.length) :
    exec (.sendDataEsc dest payload) s = .next (raiseFatal .txPayloadOversize s) := by
  refine (unlessHalted_of_safe h _).trans (if_neg ?_)
  rw [payloadFits_iff]
  omega

/-! ### The frames -/

/-- The local command frame has at most 255 data bytes, so its length-high byte is 0 (R59, R123). -/
theorem specFrame_atData {c : Config} (f cmd0 cmd1 : Byte) {param : List Byte} (h : 4 + param.length < 256) :
    specFrame (atData c f cmd0 cmd1 param) =
      [0x7E, 0x00, BitVec.ofNat 8 (4 + param.length), c.ftAtCmd, f, cmd0, cmd1] ++ param ++
        [0xFF - BitVec.ofNat 8 (([c.ftAtCmd, f, cmd0, cmd1] ++ param).map BitVec.toNat).sum] := by
  rw [specFrame, atData_length, Nat.div_eq_of_lt h]
  rfl

/-- The data of the payload-data frame with the address written out (R60). -/
theorem txData_eq (c : Config) (dest : Address) (payload : List Byte) :
    txData c dest payload = c.txPre ++
      [dest.extractLsb 63 56, dest.extractLsb 55 48, dest.extractLsb 47 40, dest.extractLsb 39 32,
       dest.extractLsb 31 24, dest.extractLsb 23 16, dest.extractLsb 15 8, dest.extractLsb 7 0] ++
      c.txPost ++ payload := rfl

theorem specFrame_eq_cons (data : List Byte) : specFrame data = 0x7E :: (specFrame data).tail := rfl

/-! ### Stuffing and the bytes written -/

theorem writtenBytes_sent (w : List WriteTxn) (s : State) :
    (sent w s).writtenBytes = s.writtenBytes ++ w.flatMap WriteTxn.bytes := List.flatMap_append

theorem stuff_of_not_reserved {v : Byte} (h : v ∉ RESERVED) : stuff v = [v] :=
  if_neg (by simpa [isReserved] using h)

theorem stuff_of_reserved {v : Byte} (h : v ∈ RESERVED) : stuff v = [ESC, escXor v] :=
  if_pos (by simpa [isReserved] using h)

theorem length_le_flatMap_stuff (l : List Byte) : l.length ≤ (l.flatMap stuff).length := by
  induction l with
  | nil => exact Nat.le_refl 0
  | cons v rest ih =>
    have hv : 1 ≤ (stuff v).length := by
      unfold stuff
      split <;> simp
    rw [List.flatMap_cons, List.length_append, List.length_cons]
    omega

/-- Stuffing makes a list longer unless it has no reserved byte (R129). -/
theorem flatMap_stuff_eq_self_iff (l : List Byte) : l.flatMap stuff = l ↔ ∀ v ∈ l, v ∉ RESERVED := by
  induction l with
  | nil => simp
  | cons v rest ih =>
    rw [List.flatMap_cons, List.forall_mem_cons, ← ih]
    by_cases hv : v ∈ RESERVED
    · have hlong := length_le_flatMap_stuff rest
      rw [stuff_of_reserved hv]
      refine iff_of_false (fun h => ?_) (fun h => h.1 hv)
      have := congrArg List.length h
      simp only [List.length_append, List.length_cons, List.length_nil] at this
      omega
    · simp [stuff_of_not_reserved hv, hv]

/-! ### The statements -/

/-- Settles O27: each stage is one or two calls of `out` (R62, R120). -/
theorem transmitStagesWriteTheirBytes : Obligations.TransmitStagesWriteTheirBytes :=
  fun _ v hsafe => ⟨exec_txRaw_of_safe hsafe v, exec_txEscaped_of_safe hsafe v, exec_txPlain_of_safe hsafe v⟩

/-- Settles O30: with `AT_ESCAPE` the transactions are those of the wire frame (R122). -/
theorem sendAtWritesTheStuffedFrame : Obligations.SendAtWritesTheStuffedFrame := by
  intro s cmd0 cmd1 param hvalid hsafe hesc hfit
  obtain ⟨-, -, -, hcap, -⟩ := hvalid
  refine ⟨(sent [] s).transient, _, ?_, frameIdNext_toNat s.enc.frameId⟩
  rw [exec_sendAt_of_fits hsafe cmd0 cmd1 hfit, specFrame_atData _ _ _ (by omega), atTxns, if_pos hesc]
  rfl

/-- Settles O31: without `AT_ESCAPE` the same frame is one bulk transaction (R122). -/
theorem sendAtWritesTheBareFrame : Obligations.SendAtWritesTheBareFrame := by
  intro s cmd0 cmd1 param hvalid hsafe hesc hfit
  obtain ⟨-, -, -, hcap, -⟩ := hvalid
  refine ⟨(sent [] s).transient, _, ?_, frameIdNext_toNat s.enc.frameId⟩
  rw [exec_sendAt_of_fits hsafe cmd0 cmd1 hfit, specFrame_atData _ _ _ (by omega), atTxns, if_neg (by simp [hesc])]
  rfl

/-- Settles O32: the frame of `txData` in one bulk transaction (R124). -/
theorem sendDataRawWritesTheFrameInBulk : Obligations.SendDataRawWritesTheFrameInBulk := by
  intro s dest payload hsafe hfit
  rw [← txData_eq]
  exact ⟨_, exec_sendDataRaw_of_fits hsafe dest hfit⟩

/-- Settles O33: the sum kept while streaming is that of the data, so the bytes streamed are the wire frame (R125). -/
theorem sendDataEscStreamsTheStuffedFrame : Obligations.SendDataEscStreamsTheStuffedFrame := by
  intro s dest payload hsafe hfit
  rw [← txData_eq]
  exact ⟨_, exec_sendDataEsc_of_fits hsafe dest hfit⟩

/-- Settles O34: a command that does not fit is `raiseFatal` (R123, R126). -/
theorem oversizeCommandsAreFatal : Obligations.OversizeCommandsAreFatal :=
  fun _ cmd0 cmd1 dest _ hsafe => ⟨exec_sendAt_of_oversize hsafe cmd0 cmd1, fun hover =>
    ⟨exec_sendDataRaw_of_oversize hsafe dest hover, exec_sendDataEsc_of_oversize hsafe dest hover⟩⟩

/-- Settles O35: both write the same logical frame, one bare and one stuffed, and only reserved bytes are stuffed. -/
theorem rawEqualsEscapedIffNothingReserved : Obligations.RawEqualsEscapedIffNothingReserved := by
  intro s t u dest payload hsafe hfit hraw hesc
  rw [exec_sendDataRaw_of_fits hsafe dest hfit] at hraw
  rw [exec_sendDataEsc_of_fits hsafe dest hfit] at hesc
  injection hraw with hraw
  injection hesc with hesc
  rw [← hraw, ← hesc, writtenBytes_sent, writtenBytes_sent, bytes_of_byte_txns, List.append_right_inj,
    ← flatMap_stuff_eq_self_iff, specFrame_eq_cons, wireFrame_cons, eq_comm]
  simp [WriteTxn.bytes]

/-- One `SEND_AT` without parameters always fits (R6, R123), and adds one to the counter modulo 255. -/
theorem exec_sendAt_nil {s : State} (hvalid : s.cfg.Valid) (hsafe : s.fatal = false) (cmd0 cmd1 : Byte) :
    ∃ t, exec (.sendAt cmd0 cmd1 []) s = .next t ∧ t.cfg = s.cfg ∧ t.fatal = false ∧
      t.enc.frameId.toNat = (s.enc.frameId.toNat + 1) % 255 := by
  obtain ⟨-, -, hfit, -⟩ := hvalid
  exact ⟨_, exec_sendAt_of_fits hsafe cmd0 cmd1 hfit, rfl, hsafe, frameIdNext_toNat _⟩

/-- The counter after `k` command frames, from any value it can hold (R20). -/
theorem repeatOp_sendAt_nil (cmd0 cmd1 : Byte) (k : Nat) {s : State} (hvalid : s.cfg.Valid) (hsafe : s.fatal = false)
    (hid : s.enc.frameId.toNat ≤ 254) :
    ∃ t, repeatOp (.sendAt cmd0 cmd1 []) k s = .next t ∧ t.enc.frameId.toNat = (s.enc.frameId.toNat + k) % 255 := by
  induction k generalizing s with
  | zero => exact ⟨s, rfl, by omega⟩
  | succ k ih =>
    obtain ⟨u, hu, hcfg, husafe, huid⟩ := exec_sendAt_nil hvalid hsafe cmd0 cmd1
    obtain ⟨t, ht, htid⟩ := ih (hcfg ▸ hvalid) husafe (by omega)
    refine ⟨t, ?_, by omega⟩
    rw [repeatOp, hu, andThen_next, ht]

/-- Settles O29: every frame completes and advances the counter by one, by induction on their number. -/
theorem commandFramesCycleTheFrameId : Obligations.CommandFramesCycleTheFrameId := by
  intro s cmd0 cmd1 k hvalid hsafe hid
  have hone : s.enc.frameId.toNat = 1 := by rw [hid]; rfl
  obtain ⟨t, ht, htid⟩ := repeatOp_sendAt_nil cmd0 cmd1 k hvalid hsafe (by omega)
  exact ⟨t, ht, by omega⟩

end Sys2Proof.Machine
end

section
/-! PROOFS. The consumer (R110 to R117): one rule for each frame type, the source addresses as numbers, and the
statements about views and callbacks. -/

namespace Sys2Proof.Machine

/-! ### The view of each frame type -/

theorem viewFrom_of_le {m : Memory} {n start : Nat} (h : start ≤ n) (a64 : Option Address) (a16 : Option ShortAddress) :
    viewFrom m n start a64 a16 = some { frameType := m.read HDR, sourceAddress64 := a64, sourceAddress16 := a16,
                                        payloadStart := start, payloadLength := n - start } :=
  if_neg (Nat.not_lt.mpr h)

theorem viewFrom_of_lt {m : Memory} {n start : Nat} (h : n < start) (a64 : Option Address) (a16 : Option ShortAddress) :
    viewFrom m n start a64 a16 = none :=
  if_pos h

theorem viewOf_atResp (c : Config) {m : Memory} (n : Nat) (h : m.read HDR = FT_AT_RESP) :
    viewOf c m n = viewFrom m n 5 none none :=
  if_pos h

theorem viewOf_rxExplicit {c : Config} (hvalid : c.Valid) {m : Memory} (n : Nat) (h : m.read HDR = c.ftRxExplicit) :
    viewOf c m n = viewFrom m n 21 (some (sourceAddress64 m)) (some (sourceAddress16 m)) := by
  obtain ⟨-, -, -, -, -, hresp, -⟩ := hvalid
  rw [viewOf, h, if_neg hresp, if_pos rfl]

theorem viewOf_rxNet {c : Config} (hvalid : c.Valid) {m : Memory} (n : Nat) (h : m.read HDR = c.ftRxNet) :
    viewOf c m n = viewFrom m n 15 (some (sourceAddress64 m)) (some (sourceAddress16 m)) := by
  obtain ⟨-, -, -, -, hkinds, -, hresp, -⟩ := hvalid
  rw [viewOf, h, if_neg hresp, if_neg (Ne.symm hkinds), if_pos rfl]

theorem viewOf_unknown {c : Config} {m : Memory} (n : Nat) (hresp : m.read HDR ≠ FT_AT_RESP)
    (hexplicit : m.read HDR ≠ c.ftRxExplicit) (hnet : m.read HDR ≠ c.ftRxNet) : viewOf c m n = none := by
  rw [viewOf, if_neg hresp, if_neg hexplicit, if_neg hnet]

/-! ### The source addresses (R115) -/

/-- A word as wide as its bytes holds their number. -/
theorem toNat_ofNat_valueBE {l : List Byte} {w : Nat} (h : 8 * l.length = w) :
    (BitVec.ofNat w (valueBE l)).toNat = valueBE l := by
  subst h
  rw [BitVec.toNat_ofNat, Nat.pow_mul]
  exact Nat.mod_eq_of_lt (valueBE_lt l)

theorem sourceAddress64_toNat (m : Memory) : (sourceAddress64 m).toNat = valueBE ((List.range' 4 8).map m.read) :=
  toNat_ofNat_valueBE (by simp)

theorem sourceAddress16_toNat (m : Memory) : (sourceAddress16 m).toNat = valueBE ((List.range' 12 2).map m.read) :=
  toNat_ofNat_valueBE (by simp)

/-- A stretch of bytes, most significant first, as a sum of powers of 256. -/
theorem valueBE_range (f : Nat → Byte) (first count : Nat) :
    valueBE ((List.range' first count).map f) =
      ((List.range count).map fun k => (f (first + k)).toNat * 256 ^ (count - 1 - k)).sum := by
  induction count with
  | zero => rfl
  | succ n ih =>
    have hshift : ∀ k ∈ List.range n, (f (first + k)).toNat * 256 ^ (n + 1 - 1 - k) =
        (f (first + k)).toNat * 256 ^ (n - 1 - k) * 256 := fun k hk => by
      have : n + 1 - 1 - k = n - 1 - k + 1 := by have := List.mem_range.1 hk; omega
      rw [this, Nat.pow_succ, Nat.mul_assoc]
    rw [List.range'_concat, List.map_append, List.map_singleton, valueBE_concat, ih, List.range_succ, List.map_append,
      List.sum_append, List.map_congr_left hshift, List.sum_map_mul_right]
    simp

/-! ### The statements -/

/-- Settles O57: the type 0x88 is the first branch of the view (R112). -/
theorem viewOfAnAtResponse : Obligations.ViewOfAnAtResponse := by
  intro c m n htype hlen
  rw [viewOf_atResp c n htype, viewFrom_of_le hlen, show m.read HDR = 0x88 from htype]

/-- Settles O58: valid parameters keep the three types apart, and 64 and 16 bits hold the addresses (R113 to R115). -/
theorem viewOfAReceiveIndicator : Obligations.ViewOfAReceiveIndicator := by
  intro c m n hvalid
  refine ⟨sourceAddress64 m, sourceAddress16 m, (sourceAddress64_toNat m).trans (valueBE_range _ _ _), ?_,
    fun htype hlen => ?_, fun htype hlen => ?_⟩
  · rw [sourceAddress16_toNat]
    simp [valueBE, List.range']
  · rw [viewOf_rxExplicit hvalid n htype, viewFrom_of_le hlen, show m.read HDR = c.ftRxExplicit from htype]
  · rw [viewOf_rxNet hvalid n htype, viewFrom_of_le hlen, show m.read HDR = c.ftRxNet from htype]

/-- Settles O59: no type of the three, or a frame below the payload start of its type (R116). -/
theorem noViewOfAnUnknownOrShortFrame : Obligations.NoViewOfAnUnknownOrShortFrame := by
  intro c m n hvalid
  refine ⟨viewOf_unknown n, fun htype hshort => ?_, fun htype hshort => ?_, fun htype hshort => ?_⟩
  · exact (viewOf_atResp c n htype).trans (viewFrom_of_lt hshort _ _)
  · exact (viewOf_rxExplicit hvalid n htype).trans (viewFrom_of_lt hshort _ _)
  · exact (viewOf_rxNet hvalid n htype).trans (viewFrom_of_lt hshort _ _)

/-- A matching checksum byte that is stored is the end of the frame and one `frame_ready` (R84). -/
theorem exec_rxCsum_match {s t : State} {v : Byte} (hsafe : s.fatal = false) (h : exec (.rxCsum v) s = .next t)
    (hv : v = 0xFF - s.dec.checksumAccumulator) : t = raiseFrameReady s.dec.declaredSize (endFrame v s) := by
  have hmatch := (checksumMatches_iff s.dec.checksumAccumulator v).2 hv
  rw [exec_rxCsum_of_safe hsafe] at h
  obtain ⟨-, ⟨-, rfl⟩ | ⟨hmiss, -⟩⟩ := takeChecksum_eq_next h
  · rfl
  · rw [hmatch] at hmiss
    cases hmiss

/-- Settles O60: the three cases of the dispatcher's work exclude each other by the view and the slot (R116, R117). -/
theorem handlerIsInvokedOncePerRecognisedFrame : Obligations.HandlerIsInvokedOncePerRecognisedFrame := by
  intro s t v hsafe h hv
  obtain rfl := exec_rxCsum_match hsafe h hv
  rw [raiseFrameReady_dec]
  obtain ⟨hview, hd⟩ | ⟨w, hview, hslot, hd⟩ | ⟨w, k, hview, hslot, hd⟩ := dispatchFrame_cases s.dec.declaredSize
    { endFrame v s with frameReady := (endFrame v s).frameReady ++ [s.dec.declaredSize] }
  all_goals
    rw [show raiseFrameReady s.dec.declaredSize (endFrame v s) = _ from hd]
    simp_all [endFrame, View.payload]

end Sys2Proof.Machine
end

section
/-! PROOFS. What an operation can change (R7, R27, R88, R149): one inversion of `exec` by the unit an operation belongs
to, and the statements that follow from it. -/

namespace Sys2Proof.Machine

/-! ### While `fatal = 1` (R149) -/

theorem exec_of_fatal {i : Instr} (hi : i ≠ .reset) {s : State} (h : s.fatal = true) : exec i s = .next s := by
  cases i with
  | rxHalted | rxIgnored | cmdNone => rfl
  | reset => exact absurd rfl hi
  | rxDelim | rxLenHi | rxLenLo | rxLenLoReject | rxUnesc | rxEsc | rxData | rxCsum | txRaw | txEscaped | txPlain
  | sendAt | sendDataRaw | sendDataEsc | checksum | csClear | csAdd | csFinal | escEmit | fidNext =>
    exact unlessHalted_of_fatal h _

/-- Settles O42: every meaning but that of `RESET` is the identity or is guarded by `unlessHalted`. -/
theorem fatalHaltsEveryOperation : Obligations.FatalHaltsEveryOperation :=
  fun _ _ hi h => exec_of_fatal hi h

/-- Settles O43: no other operation changes a halted block, and `RESET` is selected by its own input alone. -/
theorem onlyResetClearsFatal : Obligations.OnlyResetClearsFatal := by
  intro s t hfatal h hclear
  obtain ⟨-, rfl⟩ | ⟨k, rest, -, rfl⟩ | ⟨e, rest, i, hin, hdec, hexec⟩ := step_cases h
  · rw [hfatal] at hclear
    cases hclear
  · exact absurd (hfatal.symm.trans hclear) (by decide)
  · by_cases hi : i = .reset
    · subst hi
      rw [hin, decode_eq_reset hdec, List.head?_cons]
    · rw [exec_of_fatal hi (s := { s with inputs := rest }) hfatal] at hexec
      injection hexec with hexec
      subst hexec
      exact absurd (hfatal.symm.trans hclear) (by decide)

/-! ### The commands always answer next -/

/-- The state a command leaves while the block is not halted: sent where it fits, else fatal (R63, R122 to R126). -/
def sendState (i : Instr) (s : State) : State :=
  match i with
  | .sendAt cmd0 cmd1 param =>
    if 8 + param.length ≤ s.cfg.atBufCap then
      fidNext (sent (atTxns s.cfg (specFrame (atData s.cfg s.enc.frameId cmd0 cmd1 param))) s)
    else raiseFatal .txParamOversize s
  | .sendDataRaw dest payload =>
    if payload.length ≤ s.cfg.txMaxN then sent [.bulk (specFrame (txData s.cfg dest payload))] s
    else raiseFatal .txPayloadOversize s
  | .sendDataEsc dest payload =>
    if payload.length ≤ s.cfg.txMaxN then sent ((wireFrame (specFrame (txData s.cfg dest payload))).map .byte) s
    else raiseFatal .txPayloadOversize s
  | _ => s

/-- The state a command leaves: unchanged while halted (R149). -/
def commandState (i : Instr) (s : State) : State := if s.fatal then s else sendState i s

theorem exec_send {i : Instr} {p : CmdPort} (henc : encode i = .cmd p) {s : State} (hf : s.fatal = false) :
    exec i s = .next (sendState i s) := by
  cases i with
  | sendAt cmd0 cmd1 param =>
    simp only [sendState]
    split_ifs with hfit
    · exact exec_sendAt_of_fits hf cmd0 cmd1 hfit
    · exact exec_sendAt_of_oversize hf cmd0 cmd1 (Nat.not_le.mp hfit)
  | sendDataRaw dest payload =>
    simp only [sendState]
    split_ifs with hfit
    · exact exec_sendDataRaw_of_fits hf dest hfit
    · exact exec_sendDataRaw_of_oversize hf dest (Nat.not_le.mp hfit)
  | sendDataEsc dest payload =>
    simp only [sendState]
    split_ifs with hfit
    · exact exec_sendDataEsc_of_fits hf dest hfit
    · exact exec_sendDataEsc_of_oversize hf dest (Nat.not_le.mp hfit)
  | cmdNone => rfl
  | _ => cases henc

theorem exec_command {i : Instr} {p : CmdPort} (henc : encode i = .cmd p) (s : State) :
    exec i s = .next (commandState i s) := by
  unfold commandState
  split_ifs with hf
  · exact exec_of_fatal (by rintro rfl; cases henc) hf
  · exact exec_send henc (Bool.not_eq_true _ ▸ hf)

/-- The encoder's registers and the stream at most have changed, and `fatal` with its label; the counter has advanced if
it has changed (R27). -/
def WritesEncoder (s t : State) : Prop :=
  ∃ e tr w f ls n, (e = s.enc ∨ e.frameId = frameIdNext s.enc.frameId) ∧ t = { s with
    enc := e, transient := tr, written := s.written ++ w, fatal := f, labels := s.labels ++ ls, freeCount := n }

theorem WritesEncoder.refl (s : State) : WritesEncoder s s :=
  ⟨s.enc, s.transient, [], s.fatal, [], s.freeCount, .inl rfl, by simp⟩

theorem WritesEncoder.of_sent (w : List WriteTxn) (s : State) : WritesEncoder s (sent w s) :=
  ⟨s.enc, (sent w s).transient, w, s.fatal, [], s.freeCount + 1, .inl rfl, by simp [sent]⟩

theorem WritesEncoder.of_fidNext_sent (w : List WriteTxn) (s : State) : WritesEncoder s (fidNext (sent w s)) :=
  ⟨(fidNext s).enc, (sent w s).transient, w, s.fatal, [], s.freeCount + 1, .inr rfl, by simp [fidNext, sent]⟩

theorem WritesEncoder.of_raiseFatal (c : Condition) (s : State) : WritesEncoder s (raiseFatal c s) :=
  ⟨s.enc, s.transient, [], true, [c], s.freeCount, .inl rfl, by simp [raiseFatal, label]⟩

theorem sendState_writesEncoder (i : Instr) (s : State) : WritesEncoder s (sendState i s) := by
  cases i with
  | sendAt =>
    simp only [sendState]
    split_ifs
    · exact .of_fidNext_sent _ s
    · exact .of_raiseFatal _ s
  | sendDataRaw | sendDataEsc =>
    simp only [sendState]
    split_ifs
    · exact .of_sent _ s
    · exact .of_raiseFatal _ s
  | _ => exact .refl s

theorem commandState_writesEncoder (i : Instr) (s : State) : WritesEncoder s (commandState i s) := by
  unfold commandState
  split
  · exact .refl s
  · exact sendState_writesEncoder i s

/-! ### What each operation can change -/

/-- The decoder at most has changed, its buffer still canonical, and labels may have been added (R27). -/
def WritesDecoder (s t : State) : Prop :=
  ∃ d ls, (s.dec.buffer.wf → d.buffer.wf) ∧ t = { s with dec := d, labels := s.labels ++ ls }

/-- The frame has ended with one `frame_ready(declaredSize)`, and the consumer may have added to its records (R88). -/
def EndsFrame (s t : State) : Prop :=
  ∃ d cs ls, (s.dec.buffer.wf → d.buffer.wf) ∧ d.ignoring = true ∧ t = { s with
    dec := d
    frameReady := s.frameReady ++ [s.dec.declaredSize]
    callbacks := s.callbacks ++ cs
    labels := s.labels ++ ls }

/-- What an operation run alone by a bench input writes (log 9): an accumulator, the counter, the stream, a result. -/
def WritesAlone (s t : State) : Prop :=
  ∃ a e tr w r n, t = { s with
    dec := { s.dec with checksumAccumulator := a }
    enc := e, transient := tr, written := s.written ++ w, returned := r, freeCount := n }

/-- Everything an operation can change, by the port that selects it. -/
inductive Effect (s : State) : Instr → State → Prop
  | none (i : Instr) : Effect s i s
  | reset : Effect s .reset { clearDecoder s with enc := { frameId := FRAME_ID_RESET }, fatal := false }
  | decoder {i : Instr} {b : Byte} {t : State} (henc : encode i = .rx b) (h : WritesDecoder s t) : Effect s i t
  | frame {i : Instr} {b : Byte} {t : State} (hi : i = .rxCsum b ∨ i = .rxUnesc b) (h : EndsFrame s t) : Effect s i t
  | command {i : Instr} {p : CmdPort} {t : State} (henc : encode i = .cmd p) (h : WritesEncoder s t) : Effect s i t
  | bench {i : Instr} {t : State} (henc : (encode i).external = false) (h : WritesAlone s t) : Effect s i t

theorem WritesDecoder.of_dec {s : State} {d : Dec} (hm : s.dec.buffer.wf → d.buffer.wf) :
    WritesDecoder s { s with dec := d } := ⟨d, [], hm, by simp⟩

theorem WritesDecoder.of_label {s : State} {d : Dec} (c : Condition) (hm : s.dec.buffer.wf → d.buffer.wf) :
    WritesDecoder s (label c { s with dec := d }) := ⟨d, [c], hm, rfl⟩

theorem Dec.take_wf {d : Dec} (v : Byte) (hm : d.buffer.wf) : (d.take v).buffer.wf := Memory.wf_write hm _ v

theorem Dec.accept_wf {d : Dec} (b : Byte) (hm : d.buffer.wf) : (d.accept b).buffer.wf :=
  Memory.wf_write (Memory.wf_write (Memory.wf_write hm _ _) _ _) _ _

/-- `RX_CSUM`, in any state of the escape flag: a frame that ends, or the bad byte and a label (R84). -/
theorem takeChecksum_effect {s t : State} {v : Byte} (p : Bool) (h : takeChecksum v (setEscape p s) = .next t) :
    EndsFrame s t ∨ WritesDecoder s t := by
  obtain ⟨-, ⟨-, rfl⟩ | ⟨-, rfl⟩⟩ := takeChecksum_eq_next h
  · obtain ⟨cs, ls, hraise⟩ := raiseFrameReady_frame s.dec.declaredSize (endFrame v (setEscape p s))
    exact .inl ⟨_, cs, ls, fun hm => Memory.wf_write hm _ v, rfl, hraise⟩
  · exact .inr (.of_label _ fun hm => Memory.wf_write hm _ v)

theorem takeData_effect {s t : State} {v : Byte} (p : Bool) (h : takeData v (setEscape p s) = .next t) :
    WritesDecoder s t := by
  obtain ⟨-, rfl⟩ := takeData_eq_next h
  exact .of_dec fun hm => Memory.wf_write hm _ v

theorem WritesAlone.of_written (w : List WriteTxn) (s : State) :
    WritesAlone s { s with written := s.written ++ w } :=
  ⟨s.dec.checksumAccumulator, s.enc, s.transient, w, s.returned, s.freeCount, rfl⟩

theorem WritesAlone.of_returned (r : Option Byte) (n : Nat) (s : State) :
    WritesAlone s { s with returned := r, freeCount := n } :=
  ⟨s.dec.checksumAccumulator, s.enc, s.transient, [], r, n, by simp⟩

theorem WritesAlone.of_setAcc (acc : AccSel) (v : Byte) (s : State) : WritesAlone s (setAcc acc v s) := by
  cases acc with
  | dec => exact ⟨v, s.enc, s.transient, [], s.returned, s.freeCount, by simp [setAcc]⟩
  | enc =>
    exact ⟨s.dec.checksumAccumulator, s.enc, { s.transient with txAcc := v }, [], s.returned, s.freeCount, by
      simp [setAcc]⟩

theorem WritesAlone.of_fidNext (s : State) : WritesAlone s (fidNext s) :=
  ⟨s.dec.checksumAccumulator, (fidNext s).enc, s.transient, [], s.returned, s.freeCount, by simp [fidNext]⟩

theorem exec_next_unique {i : Instr} {s t u : State} (hu : exec i s = .next u) (h : exec i s = .next t) : t = u :=
  Host.Outcome.next.inj (h.symm.trans hu)

/-- The effect of an operation of the bench (log 9). -/
theorem exec_writesAlone {i : Instr} (henc : (encode i).external = false) {s t : State} (hf : s.fatal = false)
    (h : exec i s = .next t) : WritesAlone s t := by
  cases i with
  | txRaw v => exact exec_next_unique (exec_txRaw_of_safe hf v) h ▸ .of_written _ s
  | txEscaped v => exact exec_next_unique (exec_txEscaped_of_safe hf v) h ▸ .of_written _ s
  | txPlain v => exact exec_next_unique (exec_txPlain_of_safe hf v) h ▸ .of_written _ s
  | checksum buf length => exact exec_next_unique (exec_checksum_of_safe hf buf length) h ▸ .of_returned _ _ s
  | csClear acc => exact exec_next_unique (exec_csClear_of_safe hf acc) h ▸ .of_setAcc acc _ s
  | csAdd acc v => exact exec_next_unique (exec_csAdd_of_safe hf acc v) h ▸ .of_setAcc acc _ s
  | csFinal acc => exact exec_next_unique (exec_csFinal_of_safe hf acc) h ▸ .of_returned _ _ s
  | escEmit v => exact exec_next_unique (exec_escEmit_of_safe hf v) h ▸ .of_written _ s
  | fidNext => exact exec_next_unique (exec_fidNext_of_safe hf) h ▸ .of_fidNext s
  | _ => cases henc

/-- The effect of an operation a received byte selects. -/
theorem exec_rx_effect {i : Instr} {b : Byte} (henc : encode i = .rx b) {s t : State} (hf : s.fatal = false)
    (h : exec i s = .next t) : Effect s i t := by
  cases i with
  | rxHalted | rxIgnored => exact exec_next_unique rfl h ▸ .none _
  | rxDelim =>
    obtain rfl := exec_next_unique (exec_rxDelim_of_safe hf) h
    refine .decoder henc ⟨Dec.fresh, if frameInProgress s.dec then [.frameAborted] else [], fun _ => rfl, ?_⟩
    split <;> simp [clearDecoder, csClear_eq, setAcc, label, Dec.fresh]
  | rxLenHi b => exact exec_next_unique (exec_rxLenHi_of_safe hf b) h ▸ .decoder henc (.of_dec id)
  | rxLenLo b =>
    rw [exec_rxLenLo_of_safe hf] at h
    obtain ⟨-, rfl⟩ := storeHeader_eq_next h
    exact .decoder henc (.of_dec (Dec.accept_wf b))
  | rxLenLoReject b => exact exec_next_unique (exec_rxLenLoReject_of_safe hf b) h ▸ .decoder henc (.of_label _ id)
  | rxUnesc b =>
    rw [exec_rxUnesc_of_safe hf] at h
    obtain ⟨-, h⟩ | ⟨-, h⟩ := takeStructural_eq_next h
    · exact .decoder henc (takeData_effect false h)
    · exact (takeChecksum_effect false h).elim (.frame (.inr rfl)) (.decoder henc)
  | rxEsc => exact exec_next_unique (exec_rxEsc_of_safe hf) h ▸ .decoder henc (.of_dec id)
  | rxData v =>
    rw [exec_rxData_of_safe hf] at h
    exact .decoder henc (takeData_effect s.dec.escapePending h)
  | rxCsum v =>
    rw [exec_rxCsum_of_safe hf] at h
    exact (takeChecksum_effect s.dec.escapePending h).elim (.frame (.inl rfl)) (.decoder henc)
  | _ => cases henc

theorem eq_reset_of_encode {i : Instr} (h : encode i = .reset) : i = .reset := by
  cases i with
  | reset => rfl
  | _ => cases h

theorem encode_ne_register (i : Instr) (k : Nat) : encode i ≠ .register k := by
  cases i <;> exact nofun

/-- Every operation that answers next has its effect. -/
theorem exec_effect {i : Instr} {s t : State} (h : exec i s = .next t) : Effect s i t := by
  by_cases hi : i = .reset
  · subst hi
    exact exec_next_unique rfl h ▸ .reset
  cases hf : s.fatal
  case true => exact exec_next_unique (exec_of_fatal hi hf) h ▸ .none i
  cases henc : encode i with
  | rx b => exact exec_rx_effect henc hf h
  | cmd p => exact exec_next_unique (exec_command henc s) h ▸ .command henc (commandState_writesEncoder i s)
  | tx r k v => exact .bench (by rw [henc]; rfl) (exec_writesAlone (by rw [henc]; rfl) hf h)
  | internal j => exact .bench (by rw [henc]; rfl) (exec_writesAlone (by rw [henc]; rfl) hf h)
  | reset => exact absurd (eq_reset_of_encode henc) hi
  | register k => exact absurd henc (encode_ne_register i k)

/-! ### The statements -/

/-- Settles O44: each unit's effect writes that unit's fields, and an operation is selected by one port alone. -/
theorem eachUnitWritesItsOwnState : Obligations.EachUnitWritesItsOwnState := by
  intro i s t h
  cases exec_effect h with
  | none => exact ⟨rfl, rfl, rfl, fun _ _ => ⟨rfl, rfl, rfl, rfl, rfl, rfl⟩, fun _ _ => ⟨rfl, rfl, rfl, rfl⟩⟩
  | reset => exact ⟨rfl, rfl, rfl, nofun, nofun⟩
  | decoder henc hw =>
    obtain ⟨d, ls, -, rfl⟩ := hw
    refine ⟨rfl, rfl, rfl, fun _ _ => ⟨rfl, rfl, rfl, rfl, rfl, rfl⟩, fun p hp => ?_⟩
    cases henc.symm.trans hp
  | frame hi hw =>
    obtain ⟨d, cs, ls, -, -, rfl⟩ := hw
    refine ⟨rfl, rfl, rfl, fun _ _ => ⟨rfl, rfl, rfl, rfl, rfl, rfl⟩, fun p hp => ?_⟩
    obtain rfl | rfl := hi <;> cases hp
  | command henc hw =>
    obtain ⟨e, tr, w, f, ls, n, -, rfl⟩ := hw
    refine ⟨rfl, rfl, rfl, fun b hb => ?_, fun _ _ => ⟨rfl, rfl, rfl, rfl⟩⟩
    cases henc.symm.trans hb
  | bench henc hw =>
    obtain ⟨a, e, tr, w, r, n, rfl⟩ := hw
    refine ⟨rfl, rfl, rfl, fun b hb => ?_, fun p hp => ?_⟩
    · rw [hb] at henc
      cases henc
    · rw [hp] at henc
      cases henc

/-- Settles O46: of all effects only `frame` touches the events. -/
theorem onlyTheChecksumByteRaisesFrameReady : Obligations.OnlyTheChecksumByteRaisesFrameReady := by
  intro i s t h hchanged
  cases exec_effect h with
  | none => exact absurd rfl hchanged
  | reset => exact absurd rfl hchanged
  | decoder _ hw =>
    obtain ⟨d, ls, -, rfl⟩ := hw
    exact absurd rfl hchanged
  | frame hi hw =>
    obtain ⟨d, cs, ls, -, hignoring, rfl⟩ := hw
    exact ⟨⟨_, hi⟩, rfl, hignoring⟩
  | command _ hw =>
    obtain ⟨e, tr, w, f, ls, n, -, rfl⟩ := hw
    exact absurd rfl hchanged
  | bench _ hw =>
    obtain ⟨a, e, tr, w, r, n, rfl⟩ := hw
    exact absurd rfl hchanged

/-- The outputs of one operation: every effect appends to the records or leaves them. -/
theorem exec_appends {i : Instr} {s t : State} (h : exec i s = .next t) :
    s.written <+: t.written ∧ s.frameReady <+: t.frameReady ∧ s.callbacks <+: t.callbacks ∧
      s.labels <+: t.labels := by
  cases exec_effect h with
  | none => simp
  | reset => simp
  | decoder _ hw =>
    obtain ⟨d, ls, -, rfl⟩ := hw
    simp
  | frame _ hw =>
    obtain ⟨d, cs, ls, -, -, rfl⟩ := hw
    simp
  | command _ hw =>
    obtain ⟨e, tr, w, f, ls, n, -, rfl⟩ := hw
    simp
  | bench _ hw =>
    obtain ⟨a, e, tr, w, r, n, rfl⟩ := hw
    simp

/-- Settles O47: a step is nothing, a registration, or one operation. -/
theorem outputsAreOnlyAppended : Obligations.OutputsAreOnlyAppended := by
  intro s t h
  obtain ⟨-, rfl⟩ | ⟨k, rest, -, rfl⟩ | ⟨e, rest, i, -, -, hexec⟩ := step_cases h
  · simp
  · simp
  · exact exec_appends (s := { s with inputs := rest }) hexec

/-- Settles O48: the decoder's operations store through `Memory.write`, the others leave the buffer or clear it. -/
theorem everyOperationKeepsTheMemoryCanonical : Obligations.EveryOperationKeepsTheMemoryCanonical := by
  intro i s t hm h
  cases exec_effect h with
  | none => exact hm
  | reset => exact Memory.wf_nil
  | decoder _ hw =>
    obtain ⟨d, ls, hd, rfl⟩ := hw
    exact hd hm
  | frame _ hw =>
    obtain ⟨d, cs, ls, hd, -, rfl⟩ := hw
    exact hd hm
  | command _ hw =>
    obtain ⟨e, tr, w, f, ls, n, -, rfl⟩ := hw
    exact hm
  | bench _ hw =>
    obtain ⟨a, e, tr, w, r, n, rfl⟩ := hw
    exact hm

end Sys2Proof.Machine
end

section
/-! PROOFS. Noninterference (R27, R106): a change of the encoder's registers passes through every received-byte
operation, and a change of the decoder through every command. -/

namespace Sys2Proof.Machine

/-! ### Operations that commute with a change of the state -/

/-- Change the state of an outcome. -/
def mapNext (g : State → State) : Result → Result
  | .next s => .next (g s)
  | .fault e => .fault e
  | .refused e => .refused e

/-- The operation answers alike before and after the change, up to the change itself. -/
def Respects (g : State → State) (f : State → Result) : Prop := ∀ s, f (g s) = mapNext g (f s)

section
variable {g : State → State} {f k : State → Result}

theorem Respects.next {u : State → State} (h : ∀ s, u (g s) = g (u s)) : Respects g fun s => .next (u s) :=
  fun s => congrArg Host.Outcome.next (h s)

theorem Respects.andThen (hf : Respects g f) (hk : Respects g k) : Respects g fun s => andThen (f s) k := by
  intro s
  show Machine.andThen (f (g s)) k = mapNext g (Machine.andThen (f s) k)
  rw [hf s]
  cases f s with
  | next t => exact hk t
  | fault | refused => rfl

theorem Respects.ite {c : State → Bool} (hc : ∀ s, c (g s) = c s) (hf : Respects g f) (hk : Respects g k) :
    Respects g fun s => if c s then f s else k s := by
  intro s
  show (if c (g s) then f (g s) else k (g s)) = mapNext g (if c s then f s else k s)
  rw [hc s, hf s, hk s]
  exact (apply_ite (mapNext g) _ _ _).symm

theorem Respects.unlessHalted (hg : ∀ s, (g s).fatal = s.fatal) (hf : Respects g f) :
    Respects g fun s => unlessHalted s (f s) :=
  .ite hg (.next fun _ => rfl) hf

end

/-! ### The encoder's registers and the received-byte operations -/

/-- The state with other values in the encoder's registers. -/
def withEncoder (e : Enc) (tr : Transient) (s : State) : State := { s with enc := e, transient := tr }

section
variable (e : Enc) (tr : Transient)

theorem storeByte_respects (index : Dec → Nat) (v : Dec → Byte) :
    Respects (withEncoder e tr) fun s => storeByte (index s.dec) (v s.dec) s := by
  intro s
  obtain h | h := Nat.lt_or_ge (index s.dec) s.cfg.bufCap
  · exact (storeByte_inside (s := withEncoder e tr s) _ h).trans
      (congrArg (mapNext (withEncoder e tr)) (storeByte_inside (v s.dec) h)).symm
  · exact (storeByte_outside (s := withEncoder e tr s) _ h).trans
      (congrArg (mapNext (withEncoder e tr)) (storeByte_outside (v s.dec) h)).symm

theorem storeHeader_respects (b : Byte) : Respects (withEncoder e tr) (storeHeader b) :=
  .andThen (storeByte_respects e tr (fun _ => 0) fun _ => DELIM)
    (.andThen (storeByte_respects e tr (fun _ => 1) fun d => d.lenHigh)
      (storeByte_respects e tr (fun _ => 2) fun _ => b))

theorem raiseFrameReady_withEncoder (n : Size) (s : State) :
    raiseFrameReady n (withEncoder e tr s) = withEncoder e tr (raiseFrameReady n s) := by
  simp only [raiseFrameReady, dispatchFrame, withEncoder]
  cases viewOf s.cfg s.dec.buffer n.toNat with
  | none => rfl
  | some w => cases s.handler <;> rfl

theorem takeData_respects (v : Byte) : Respects (withEncoder e tr) (takeData v) :=
  .andThen (storeByte_respects e tr (fun d => d.offset.toNat + 1) fun _ => v) (.next fun _ => rfl)

theorem takeChecksum_respects (v : Byte) : Respects (withEncoder e tr) (takeChecksum v) :=
  .andThen (storeByte_respects e tr (fun d => d.declaredSize.toNat) fun _ => v)
    (.ite (fun _ => rfl) (.next fun s => raiseFrameReady_withEncoder e tr s.dec.declaredSize (ignoreRest (advance s)))
      (.next fun _ => rfl))

theorem takeStructural_respects (v : Byte) : Respects (withEncoder e tr) (takeStructural v) :=
  .ite (fun _ => rfl) (takeData_respects e tr v) (takeChecksum_respects e tr v)

theorem exec_rx_respects {i : Instr} {b : Byte} (henc : encode i = .rx b) : Respects (withEncoder e tr) (exec i) := by
  cases i with
  | rxHalted | rxIgnored => exact .next fun _ => rfl
  | rxDelim =>
    refine .unlessHalted (fun _ => rfl) (.next fun s => ?_)
    show clearDecoder (if frameInProgress s.dec then _ else _) = _
    cases frameInProgress s.dec <;> rfl
  | rxLenHi | rxLenLoReject | rxEsc => exact .unlessHalted (fun _ => rfl) (.next fun _ => rfl)
  | rxLenLo b => exact .unlessHalted (fun _ => rfl) fun s => storeHeader_respects e tr b (takeLengthLow b s)
  | rxUnesc b =>
    exact .unlessHalted (fun _ => rfl) fun s => takeStructural_respects e tr (escXor b) (setEscape false s)
  | rxData v => exact .unlessHalted (fun _ => rfl) (takeData_respects e tr v)
  | rxCsum v => exact .unlessHalted (fun _ => rfl) (takeChecksum_respects e tr v)
  | _ => cases henc

end

/-! ### The decoder and the commands -/

theorem sendState_dec (i : Instr) (s : State) (d : Dec) :
    sendState i { s with dec := d } = { sendState i s with dec := d } := by
  cases i with
  | sendAt | sendDataRaw | sendDataEsc =>
    simp only [sendState]
    split_ifs <;> rfl
  | _ => rfl

theorem commandState_dec (i : Instr) (s : State) (d : Dec) :
    commandState i { s with dec := d } = { commandState i s with dec := d } := by
  unfold commandState
  split_ifs
  · rfl
  · exact sendState_dec i s d

/-! ### The statement -/

/-- Settles O45: `withEncoder` passes through every received-byte operation, a change of the decoder through
`commandState`. -/
theorem unitsDoNotReadEachOther : Obligations.UnitsDoNotReadEachOther := by
  intro i s t h
  refine ⟨fun b e tr henc => ?_, fun p d henc => ?_⟩
  · have hres := exec_rx_respects e tr henc s
    rw [h] at hres
    exact hres
  · rw [exec_command henc, commandState_dec, exec_next_unique (exec_command henc s) h]

end Sys2Proof.Machine
end

section
/-! PROOFS. The decoder's invariant (R19): each change of the decoder keeps it. -/

namespace Sys2Proof.Machine

/-- The decoder a checksum byte leaves (R84). -/
def Dec.finish (v : Byte) (d : Dec) : Dec :=
  { d with offset := d.offset + 1, buffer := d.buffer.write d.declaredSize.toNat v, ignoring := true }

theorem Dec.finish_read {d : Dec} (hm : d.buffer.wf) (v : Byte) (a : Nat) :
    (d.finish v).buffer.read a = if a = d.declaredSize.toNat then v else d.buffer.read a :=
  Memory.read_write hm _ v a

theorem Dec.inv_fresh (cfg : Config) : Dec.fresh.Inv cfg where
  memory := rfl
  fresh _ := ⟨rfl, rfl, rfl, rfl, fun _ => rfl⟩
  sized h := absurd h (by decide)
  live _ h := absurd h (by decide)
  escape := nofun
  ignored := nofun
  above _ _ := rfl
  rejected := nofun

/-- A header is what stands at the first three indices (R19 item 3). -/
theorem Dec.Header.of_read {d d' : Dec} (h : d.Header) (hread : ∀ a, a < 3 → d'.buffer.read a = d.buffer.read a)
    (hsize : d'.declaredSize = d.declaredSize) : d'.Header := by
  constructor
  · rw [hread 0 (by decide), h.delimiter]
  · rw [hread 1 (by decide), hread 2 (by decide), h.length, hsize]

theorem declaredLength_le (a b : Byte) : declaredLength a b ≤ 65535 := by
  have := a.isLt
  have := b.isLt
  unfold declaredLength
  omega

section
variable {cfg : Config} {d : Dec} (hinv : d.Inv cfg)
include hinv

theorem Dec.Inv.takeLenHi (b : Byte) (h0 : d.offset = 0) : Dec.Inv cfg { d with offset := 1, lenHigh := b } := by
  obtain ⟨hsize, hacc, hbare, hlive, hzero⟩ := hinv.fresh (by rw [h0]; decide)
  exact {
    memory := hinv.memory
    fresh := fun _ => ⟨hsize, hacc, hbare, hlive, hzero⟩
    sized := fun h => by simp at h
    live := fun _ h => by simp at h
    escape := fun h => absurd (hbare.symm.trans h) (by decide)
    ignored := fun h => absurd (hlive.symm.trans h) (by decide)
    above := fun i _ => hzero i
    rejected := fun _ _ => hzero }

theorem Dec.Inv.accept (b : Byte) (h1 : d.offset = 1) (hfit : declaredLength d.lenHigh b + 4 ≤ cfg.bufCap) :
    (d.accept b).Inv cfg := by
  obtain ⟨hsize, hacc, hbare, hlive, hzero⟩ := hinv.fresh (by rw [h1]; decide)
  have hread := Dec.accept_read hinv.memory b
  have hoff : (d.accept b).offset.toNat = 2 := rfl
  have hn : (d.accept b).declaredSize.toNat = declaredLength d.lenHigh b + 3 := declaredSizeOf_toNat _ _
  have hlen := declaredLength_le d.lenHigh b
  exact {
    memory := Dec.accept_wf b hinv.memory
    fresh := fun h => by omega
    sized := fun _ => by omega
    live := fun _ _ => ⟨by omega, by omega,
      ⟨hread 0, by rw [hread 1, hread 2]; exact hn.symm⟩, hacc⟩
    escape := fun h => absurd (hbare.symm.trans h) (by decide)
    ignored := fun h => absurd (hlive.symm.trans h) (by decide)
    above := fun i hi => by
      have : 2 < i := lt_of_le_of_lt (le_max_right _ _) hi
      rw [hread i, if_neg (by omega), if_neg (by omega), if_neg (by omega), hzero i]
    rejected := fun h => absurd (hlive.symm.trans h) (by decide) }

theorem Dec.Inv.reject (b : Byte) (h1 : d.offset = 1) (hover : cfg.bufCap < declaredLength d.lenHigh b + 4) :
    (d.reject b).Inv cfg := by
  obtain ⟨-, -, hbare, -, hzero⟩ := hinv.fresh (by rw [h1]; decide)
  have hoff : (d.reject b).offset.toNat = 2 := rfl
  have hn : (d.reject b).declaredSize.toNat = declaredLength d.lenHigh b + 3 := declaredSizeOf_toNat _ _
  have hlen := declaredLength_le d.lenHigh b
  exact {
    memory := hinv.memory
    fresh := fun h => by omega
    sized := fun _ => by omega
    live := nofun
    escape := fun h => absurd (hbare.symm.trans h) (by decide)
    ignored := fun _ => ⟨hbare, .inl ⟨rfl, by omega⟩⟩
    above := fun i _ => hzero i
    rejected := fun _ _ => hzero }

/-- The flag may be cleared anywhere, and set in a frame with both length bytes consumed (R19 item 4). -/
theorem Dec.Inv.setEscape (p : Bool) (hp : p = true → d.ignoring = false ∧ 2 ≤ d.offset.toNat) :
    Dec.Inv cfg { d with escapePending := p } where
  memory := hinv.memory
  fresh h := by
    obtain ⟨hsize, hacc, -, hlive, hzero⟩ := hinv.fresh h
    cases p with
    | false => exact ⟨hsize, hacc, rfl, hlive, hzero⟩
    | true => exact absurd h (Nat.not_le.mpr (hp rfl).2)
  sized := hinv.sized
  live hlive h2 := by
    obtain ⟨hcap, hlt, hheader, hacc⟩ := hinv.live hlive h2
    exact ⟨hcap, hlt, hheader.of_read (fun _ _ => rfl) rfl, hacc⟩
  escape h := by
    obtain ⟨hlive, h2⟩ := hp h
    obtain ⟨-, hlt, -⟩ := hinv.live hlive h2
    exact ⟨hlive, h2, hlt⟩
  ignored h := by
    obtain rfl : p = false := Bool.eq_false_of_not_eq_true fun hset => absurd (h.symm.trans (hp hset).1) (by decide)
    obtain ⟨-, hrejected | ⟨hoff, hsize, hcap, hheader, hacc⟩⟩ := hinv.ignored h
    · exact ⟨rfl, .inl hrejected⟩
    · exact ⟨rfl, .inr ⟨hoff, hsize, hcap, hheader.of_read (fun _ _ => rfl) rfl, hacc⟩⟩
  above := hinv.above
  rejected := hinv.rejected

variable (hlive : d.ignoring = false) (h2 : 2 ≤ d.offset.toNat) (hbare : d.escapePending = false) (v : Byte)
include hlive h2 hbare

theorem Dec.Inv.take (hlt : d.offset.toNat + 1 < d.declaredSize.toNat) : (d.take v).Inv cfg := by
  obtain ⟨hcap, -, hheader, hacc⟩ := hinv.live hlive h2
  have hread := Dec.take_read hinv.memory v
  have hoff : (d.take v).offset.toNat = d.offset.toNat + 1 := succ_toNat (Nat.le_of_lt hlt)
  have hsum : (d.take v).checksumAccumulator = (d.take v).dataSum (d.take v).offset.toNat := by
    have hthree : HDR ≤ d.offset.toNat + 1 := Nat.succ_le_succ h2
    have hcount : d.offset.toNat + 1 + 1 - HDR = d.offset.toNat + 1 - HDR + 1 := Nat.sub_add_comm hthree
    have hlast : HDR + (d.offset.toNat + 1 - HDR) = d.offset.toNat + 1 := Nat.add_sub_cancel' hthree
    rw [Dec.dataSum, hoff, hcount, sumBytes, hlast, hread, if_pos rfl,
      sumBytes_congr fun i _ hi => (hread i).trans (if_neg (by omega))]
    exact congrArg (addByte · v) hacc
  have hhead : (d.take v).Header := hheader.of_read (fun a ha => (hread a).trans (if_neg (by omega))) rfl
  exact {
    memory := Dec.take_wf v hinv.memory
    fresh := fun h => by omega
    sized := fun _ => hinv.sized h2
    live := fun _ _ => ⟨hcap, by rw [hoff]; exact hlt, hhead, hsum⟩
    escape := fun h => absurd (hbare.symm.trans h) (by decide)
    ignored := fun h => absurd (hlive.symm.trans h) (by decide)
    above := fun i hi => by
      rw [hoff] at hi
      rw [hread i, if_neg (by omega), hinv.above i (by omega)]
    rejected := fun h => absurd (hlive.symm.trans h) (by decide) }

theorem Dec.Inv.finish (hlast : d.offset.toNat + 1 = d.declaredSize.toNat) : (d.finish v).Inv cfg := by
  obtain ⟨hcap, -, hheader, hacc⟩ := hinv.live hlive h2
  have hread := Dec.finish_read hinv.memory v
  have hoff : (d.finish v).offset = d.declaredSize := succ_eq hlast
  have hsum : d.checksumAccumulator = (d.finish v).dataSum (d.declaredSize.toNat - 1) := by
    rw [hacc, ← hlast, Nat.add_sub_cancel]
    exact (sumBytes_congr fun i _ hi => (hread i).trans (if_neg (by omega))).symm
  exact {
    memory := Memory.wf_write hinv.memory _ v
    fresh := fun h => by rw [hoff] at h; omega
    sized := fun _ => hinv.sized h2
    live := nofun
    escape := fun h => absurd (hbare.symm.trans h) (by decide)
    ignored := fun _ => ⟨hbare, .inr ⟨hoff, by show 3 ≤ d.declaredSize.toNat; omega, hcap,
      hheader.of_read (fun a ha => (hread a).trans (if_neg (by omega))) rfl, hsum⟩⟩
    above := fun i hi => by
      rw [hoff] at hi
      rw [hread i, if_neg (by omega), hinv.above i (by omega)]
    rejected := fun _ h => by rw [hoff] at h; omega }

end

end Sys2Proof.Machine
end

section
/-! PROOFS. A received byte from a state that meets the invariant (R75, R86): everything it can do, and the statements
about every step. -/

namespace Sys2Proof.Machine

/-! ### Structural bytes -/

/-- The value a structural byte stands for: unescaped if it follows a marker (R54, R82). -/
def Dec.unescape (d : Dec) (b : Byte) : Byte := if d.escapePending then escXor b else b

theorem setEscape_of_eq {s : State} {p : Bool} (h : s.dec.escapePending = p) : setEscape p s = s := by
  subst h
  rfl

/-- A structural byte is data or the checksum, with the flag cleared (R61 priorities 5, 7 and 8). -/
theorem exec_structural {s : State} {b : Byte} (hsafe : s.fatal = false) (hb : b ≠ DELIM)
    (hlive : s.dec.ignoring = false) (h2 : 2 ≤ s.dec.offset.toNat) (hmark : s.dec.escapePending = false → b ≠ ESC) :
    exec (decodeRx s.rxContext b) s = takeStructural (s.dec.unescape b) (setEscape false s) := by
  cases hp : s.dec.escapePending with
  | true =>
    rw [decodeRx_of_escapePending (c := s.rxContext) hsafe hb hlive h2 hp, exec_rxUnesc_of_safe hsafe, Dec.unescape,
      if_pos hp]
  | false =>
    have hdec : decodeRx s.rxContext b =
        if s.dec.offset.toNat + 1 < s.dec.declaredSize.toNat then .rxData b else .rxCsum b := by
      split
      next hlt => exact decodeRx_of_before (c := s.rxContext) hsafe hb hlive h2 hp (hmark hp) hlt
      next hlt => exact decodeRx_of_last (c := s.rxContext) hsafe hb hlive h2 hp (hmark hp) (Nat.not_lt.mp hlt)
    have hbare : s.dec.unescape b = b := if_neg (by rw [hp]; decide)
    rw [setEscape_of_eq hp, takeStructural_eq_exec hsafe, hdec, hbare]

/-! ### Everything a received byte can do -/

/-- The state in which `RX_CSUM` leaves a frame: with its event, or with the label E2 (R84). -/
def finished (v : Byte) (s : State) : State :=
  if checksumMatches s.dec.checksumAccumulator v then raiseFrameReady s.dec.declaredSize (endFrame v s)
  else label .csumMismatch (endFrame v s)

theorem takeChecksum_eq_finished {s : State} (v : Byte) (h : s.dec.declaredSize.toNat < s.cfg.bufCap) :
    takeChecksum v s = .next (finished v s) := by
  rw [takeChecksum_inside v h, finished]
  split_ifs <;> rfl

theorem takeStructural_eq_take {s : State} (v : Byte) (h : s.dec.offset.toNat + 1 < s.dec.declaredSize.toNat)
    (hcap : s.dec.offset.toNat + 1 < s.cfg.bufCap) : takeStructural v s = .next { s with dec := s.dec.take v } := by
  rw [takeStructural, if_pos ((beforeChecksum_iff _).2 h), takeData_eq_take v hcap]

theorem takeStructural_eq_finished {s : State} (v : Byte) (h : s.dec.declaredSize.toNat ≤ s.dec.offset.toNat + 1)
    (hcap : s.dec.declaredSize.toNat < s.cfg.bufCap) : takeStructural v s = .next (finished v s) := by
  rw [takeStructural, if_neg (mt (beforeChecksum_iff _).1 (Nat.not_lt.mpr h)), takeChecksum_eq_finished v hcap]

theorem finished_dec (v : Byte) (s : State) : (finished v s).dec = s.dec.finish v := by
  unfold finished
  split_ifs
  · exact raiseFrameReady_dec _ _
  · rfl

/-- What a received byte does in a state that meets the invariant, with `fatal = 0` (R61, R76 to R84). -/
inductive RxStep (s : State) (b : Byte) : State → Prop
  | delim (hb : b = DELIM) :
      RxStep s b (clearDecoder (if frameInProgress s.dec then label .frameAborted s else s))
  | ignored (hb : b ≠ DELIM) (hignoring : s.dec.ignoring = true) : RxStep s b s
  | lenHi (hb : b ≠ DELIM) (hlive : s.dec.ignoring = false) (h0 : s.dec.offset = 0) :
      RxStep s b { s with dec := { s.dec with offset := 1, lenHigh := b } }
  | accept (hb : b ≠ DELIM) (hlive : s.dec.ignoring = false) (h1 : s.dec.offset = 1)
      (hfit : declaredLength s.dec.lenHigh b + 4 ≤ s.cfg.bufCap) : RxStep s b { s with dec := s.dec.accept b }
  | reject (hb : b ≠ DELIM) (hlive : s.dec.ignoring = false) (h1 : s.dec.offset = 1)
      (hover : s.cfg.bufCap < declaredLength s.dec.lenHigh b + 4) :
      RxStep s b (label .rxOversize { s with dec := s.dec.reject b })
  | marker (hb : b = ESC) (hlive : s.dec.ignoring = false) (h2 : 2 ≤ s.dec.offset.toNat)
      (hbare : s.dec.escapePending = false) : RxStep s b (setEscape true s)
  | data (hb : b ≠ DELIM) (hlive : s.dec.ignoring = false) (h2 : 2 ≤ s.dec.offset.toNat)
      (hmark : s.dec.escapePending = false → b ≠ ESC) (hlt : s.dec.offset.toNat + 1 < s.dec.declaredSize.toNat) :
      RxStep s b { s with dec := { s.dec with escapePending := false }.take (s.dec.unescape b) }
  | csum (hb : b ≠ DELIM) (hlive : s.dec.ignoring = false) (h2 : 2 ≤ s.dec.offset.toNat)
      (hmark : s.dec.escapePending = false → b ≠ ESC) (hlast : s.dec.offset.toNat + 1 = s.dec.declaredSize.toNat) :
      RxStep s b (finished (s.dec.unescape b) (setEscape false s))

/-- The buffer has room for the header (R6). -/
theorem three_le_bufCap {c : Config} (h : c.Valid) : 3 ≤ c.bufCap := by
  obtain ⟨hcap, -⟩ := h
  omega

/-- From a state that meets the invariant a received byte is always taken, in one of these ways (R75). -/
theorem exists_rxStep {s : State} (hinv : s.dec.Inv s.cfg) (hcap : 3 ≤ s.cfg.bufCap) (hsafe : s.fatal = false)
    (b : Byte) : ∃ t, exec (decodeRx s.rxContext b) s = .next t ∧ RxStep s b t := by
  by_cases hb : b = DELIM
  · subst hb
    exact ⟨_, by rw [decodeRx_delim (c := s.rxContext) hsafe, exec_rxDelim_of_safe hsafe], .delim rfl⟩
  cases hlive : s.dec.ignoring
  case true =>
    exact ⟨_, by rw [decodeRx_of_ignoring (c := s.rxContext) hsafe hb hlive]; rfl, .ignored hb hlive⟩
  by_cases h0 : s.dec.offset = 0
  · refine ⟨_, ?_, .lenHi hb hlive h0⟩
    rw [decodeRx_of_offset_zero (c := s.rxContext) hsafe hb hlive h0, exec_rxLenHi_of_safe hsafe]
  by_cases h1 : s.dec.offset = 1
  · obtain hfit | hover := le_or_gt (declaredLength s.dec.lenHigh b + 4) s.cfg.bufCap
    · refine ⟨_, ?_, .accept hb hlive h1 hfit⟩
      rw [decodeRx_of_fits (c := s.rxContext) hsafe hb hlive h1 hfit, exec_rxLenLo_inside hsafe b hcap]
    · refine ⟨_, ?_, .reject hb hlive h1 hover⟩
      rw [decodeRx_of_oversize (c := s.rxContext) hsafe hb hlive h1 hover, exec_rxLenLoReject_of_safe hsafe]
      rfl
  have h2 : 2 ≤ s.dec.offset.toNat := (offset_ge_two _).2 ⟨h0, h1⟩
  obtain ⟨hroom, hbelow, -⟩ := hinv.live hlive h2
  by_cases hmark : s.dec.escapePending = false ∧ b = ESC
  · obtain ⟨hbare, rfl⟩ := hmark
    exact ⟨_, by rw [decodeRx_marker (c := s.rxContext) hsafe hlive h2 hbare, exec_rxEsc_of_safe hsafe],
      .marker rfl hlive h2 hbare⟩
  have hmark : s.dec.escapePending = false → b ≠ ESC := fun hbare h => hmark ⟨hbare, h⟩
  rw [exec_structural hsafe hb hlive h2 hmark]
  obtain hlt | hlast := Nat.lt_or_ge (s.dec.offset.toNat + 1) s.dec.declaredSize.toNat
  · refine ⟨_, ?_, .data hb hlive h2 hmark hlt⟩
    exact takeStructural_eq_take (s := setEscape false s) _ hlt (Nat.lt_of_lt_of_le hlt (Nat.le_of_succ_le hroom))
  · refine ⟨_, ?_, .csum hb hlive h2 hmark (Nat.le_antisymm hbelow hlast)⟩
    exact takeStructural_eq_finished (s := setEscape false s) _ hlast hroom

/-- A received byte keeps the decoder's invariant. -/
theorem RxStep.dec_inv {s t : State} {b : Byte} (h : RxStep s b t) (hinv : s.dec.Inv s.cfg) : t.dec.Inv s.cfg := by
  have hunmarked : Dec.Inv s.cfg { s.dec with escapePending := false } := hinv.setEscape false nofun
  cases h with
  | delim hb => exact Dec.inv_fresh s.cfg
  | ignored hb hignoring => exact hinv
  | lenHi hb hlive h0 => exact hinv.takeLenHi b h0
  | accept hb hlive h1 hfit => exact hinv.accept b h1 hfit
  | reject hb hlive h1 hover => exact hinv.reject b h1 hover
  | marker hb hlive h2 hbare => exact hinv.setEscape true fun _ => ⟨hlive, h2⟩
  | data hb hlive h2 hmark hlt => exact hunmarked.take hlive h2 rfl _ hlt
  | csum hb hlive h2 hmark hlast =>
    rw [finished_dec]
    exact hunmarked.finish hlive h2 rfl _ hlast

theorem frameIdReset_le : FRAME_ID_RESET.toNat ≤ 254 := by decide

theorem encode_decodeRx (c : RxContext) (b : Byte) : encode (decodeRx c b) = .rx b := by
  unfold decodeRx
  split_ifs <;> simp_all [encode]

theorem encode_decodeCmd (p : CmdPort) : ∃ q, encode (decodeCmd p) = .cmd q := by
  unfold decodeCmd
  split_ifs <;> exact ⟨_, rfl⟩

/-! ### The statements -/

/-- Settles O37: the decoder is fresh, the counter is 1, and no input is presented. -/
theorem resetStateMeetsTheInvariant : Obligations.ResetStateMeetsTheInvariant :=
  fun cfg hvalid => ⟨hvalid, Dec.inv_fresh cfg, frameIdReset_le, nofun⟩

/-- An input an agent can present is taken, and keeps the invariant. -/
theorem runEvent_keeps_inv {s : State} (hinv : s.Inv) {e : Event} (he : e.external = true) :
    ∃ t, runEvent e s = .next t ∧ t.Inv := by
  obtain ⟨hcfg, hdec, hid, hin⟩ := hinv
  cases e with
  | rx b =>
    cases hf : s.fatal with
    | true => exact ⟨s, exec_of_fatal (decodeRx_ne_reset _ b) hf, hcfg, hdec, hid, hin⟩
    | false =>
      obtain ⟨t, ht, hstep⟩ := exists_rxStep hdec (three_le_bufCap hcfg) hf b
      obtain ⟨htcfg, -, htin, hunit, -⟩ := eachUnitWritesItsOwnState _ _ _ ht
      obtain ⟨htenc, -⟩ := hunit b (encode_decodeRx _ b)
      exact ⟨t, ht, htcfg ▸ hcfg, htcfg ▸ hstep.dec_inv hdec, htenc ▸ hid, htin ▸ hin⟩
  | cmd p =>
    obtain ⟨q, hq⟩ := encode_decodeCmd p
    refine ⟨_, exec_command hq s, ?_⟩
    obtain ⟨e, tr, w, f, ls, n, he, heq⟩ := commandState_writesEncoder (decodeCmd p) s
    rw [heq]
    refine ⟨hcfg, hdec, ?_, hin⟩
    obtain rfl | hnext := he
    · exact hid
    · show e.frameId.toNat ≤ 254
      rw [hnext, frameIdNext_toNat]
      omega
  | reset => exact ⟨_, rfl, hcfg, Dec.inv_fresh s.cfg, frameIdReset_le, hin⟩
  | register k => exact ⟨_, rfl, hcfg, hdec, hid, hin⟩
  | tx r i v | internal i => cases he

theorem step_keeps_inv {s : State} (hinv : s.Inv) : ∃ t, step s = .next t ∧ t.Inv := by
  cases hin : s.inputs with
  | nil => exact ⟨s, by rw [step, hin], hinv⟩
  | cons e rest =>
    obtain ⟨hcfg, hdec, hid, hext⟩ := hinv
    rw [hin, List.forall_mem_cons] at hext
    obtain ⟨he, hrest⟩ := hext
    rw [step_cons hin]
    exact runEvent_keeps_inv (s := { s with inputs := rest }) ⟨hcfg, hdec, hid, hrest⟩ he

/-- Settles O38: the step that keeps the invariant is the one that was taken. -/
theorem everyStepKeepsTheInvariant : Obligations.EveryStepKeepsTheInvariant := by
  intro s t hinv h
  obtain ⟨u, hu, hkeep⟩ := step_keeps_inv hinv
  obtain rfl := Host.Outcome.next.inj (hu.symm.trans h)
  exact hkeep

/-- Settles O39: external inputs decode, and the invariant keeps every store inside the buffer. -/
theorem everyStepAnswersNext : Obligations.EveryStepAnswersNext := by
  intro s hinv
  obtain ⟨t, ht, -⟩ := step_keeps_inv hinv
  exact ⟨t, ht⟩

end Sys2Proof.Machine
end

section
/-! PROOFS. The named states of the decoder (R18) and the transition table (R86). -/

namespace Sys2Proof.Machine

/-! ### The name of each kind of decoder state -/

section
variable {d : Dec}

theorem Dec.name?_start (hlive : d.ignoring = false) (h : d.offset = 0) : d.name? = some .start := by
  simp [Dec.name?, hlive, h]

theorem Dec.name?_lengthHigh (hlive : d.ignoring = false) (h : d.offset = 1) : d.name? = some .lengthHigh := by
  simp [Dec.name?, hlive, h]

theorem Dec.name?_rejected (hignoring : d.ignoring = true) (h : d.offset.toNat = 2) : d.name? = some .rejected := by
  have h2 : d.offset = 2 := BitVec.eq_of_toNat_eq h
  simp [Dec.name?, hignoring, h2]

theorem Dec.name?_done (hignoring : d.ignoring = true) (h : d.offset = d.declaredSize)
    (h3 : 3 ≤ d.declaredSize.toNat) : d.name? = some .done := by
  have h2 : d.declaredSize ≠ 2#17 := fun h2 => by simp [h2] at h3
  simp [Dec.name?, hignoring, h, h2]

/-- The name of a frame with both length bytes consumed (R18). -/
def Dec.countedName (d : Dec) : DecName := if d.offset = 2 then .lengthLow else .payload

theorem Dec.name?_counted (hlive : d.ignoring = false) (h2 : 2 ≤ d.offset.toNat)
    (hlt : d.offset.toNat < d.declaredSize.toNat) : d.name? = some d.countedName := by
  obtain ⟨h0, h1⟩ := (offset_ge_two _).1 h2
  by_cases htwo : d.offset = 2#17
  · simp [Dec.name?, Dec.countedName, hlive, htwo]
  · simp [Dec.name?, Dec.countedName, hlive, h0, h1, htwo, hlt]

/-- After a data byte that is not the last one the decoder is in `Payload`. -/
theorem Dec.name?_take (hlive : d.ignoring = false) (h2 : 2 ≤ d.offset.toNat)
    (hlt : d.offset.toNat + 1 < d.declaredSize.toNat) (v : Byte) :
    Dec.name? (Dec.take v { d with escapePending := false }) = some .payload := by
  have hoff : (d.offset + 1).toNat = d.offset.toNat + 1 := succ_toNat (Nat.le_of_lt hlt)
  have htwo : d.offset + 1 ≠ 2 := fun h => by
    rw [h] at hoff
    exact absurd h2 (by simp at hoff; omega)
  refine (Dec.name?_counted (d := Dec.take v { d with escapePending := false }) hlive ?_ ?_).trans
    (congrArg some (if_neg htwo))
  · show 2 ≤ (d.offset + 1).toNat
    omega
  · show (d.offset + 1).toNat < d.declaredSize.toNat
    omega

/-- A decoder that meets the invariant and ignores is in `Done` or `Rejected`. -/
theorem Dec.Inv.name?_of_ignoring {cfg : Config} (hinv : d.Inv cfg) (hignoring : d.ignoring = true) :
    d.name? = some .done ∨ d.name? = some .rejected := by
  obtain ⟨-, ⟨h2, -⟩ | ⟨hoff, h3, -⟩⟩ := hinv.ignored hignoring
  · exact .inr (Dec.name?_rejected hignoring h2)
  · exact .inl (Dec.name?_done hignoring hoff h3)

theorem Dec.Inv.exists_name {cfg : Config} (hinv : d.Inv cfg) : ∃ n, d.name? = some n := by
  cases hlive : d.ignoring
  case true => exact (hinv.name?_of_ignoring hlive).elim (⟨_, ·⟩) (⟨_, ·⟩)
  by_cases h0 : d.offset = 0
  · exact ⟨_, Dec.name?_start hlive h0⟩
  by_cases h1 : d.offset = 1
  · exact ⟨_, Dec.name?_lengthHigh hlive h1⟩
  have h2 : 2 ≤ d.offset.toNat := (offset_ge_two _).2 ⟨h0, h1⟩
  obtain ⟨-, hlt, -⟩ := hinv.live hlive h2
  exact ⟨_, Dec.name?_counted hlive h2 hlt⟩

end

/-! ### The table -/

/-- A delimiter leads to `Start` from everywhere, with no pending escape. -/
theorem nextName_delim (cfg : Config) (d : Dec) (n : DecName) :
    nextName cfg d DELIM n = .start ∧ nextEscape d DELIM n = false := by
  cases n <;> simp [nextName, nextEscape]

theorem nextName_lengthHigh (cfg : Config) (d : Dec) {b : Byte} (hb : b ≠ DELIM) :
    nextName cfg d b .lengthHigh =
      if declaredLength d.lenHigh b + 4 ≤ cfg.bufCap then .lengthLow else .rejected :=
  if_neg hb

/-- The row of a frame with both length bytes consumed. -/
theorem nextName_counted (cfg : Config) (d : Dec) {b : Byte} (hb : b ≠ DELIM) :
    nextName cfg d b d.countedName =
      if d.escapePending = false ∧ b = ESC then d.countedName
      else if d.offset.toNat + 1 < d.declaredSize.toNat then .payload else .done := by
  unfold Dec.countedName
  split <;> exact if_neg hb

/-- A structural byte of such a frame. -/
theorem nextName_structural (cfg : Config) (d : Dec) {b : Byte} (hb : b ≠ DELIM)
    (hmark : d.escapePending = false → b ≠ ESC) :
    nextName cfg d b d.countedName = if d.offset.toNat + 1 < d.declaredSize.toNat then .payload else .done := by
  rw [nextName_counted cfg d hb, if_neg fun h => hmark h.1 h.2]

theorem nextEscape_counted (d : Dec) (b : Byte) :
    nextEscape d b d.countedName = (!d.escapePending && b == ESC) := by
  unfold Dec.countedName
  split <;> rfl

theorem nextEscape_structural (d : Dec) {b : Byte} (hmark : d.escapePending = false → b ≠ ESC) :
    nextEscape d b d.countedName = false := by
  rw [nextEscape_counted]
  cases hp : d.escapePending
  · exact beq_false_of_ne (hmark hp)
  · rfl

/-- Every way of taking a received byte is a line of the table. -/
theorem RxStep.follows_table {s t : State} {b : Byte} (h : RxStep s b t) (hinv : s.dec.Inv s.cfg) {n : DecName}
    (hn : s.dec.name? = some n) :
    t.dec.name? = some (nextName s.cfg s.dec b n) ∧ t.dec.escapePending = nextEscape s.dec b n := by
  cases h with
  | delim hb =>
    subst hb
    obtain ⟨hname, hesc⟩ := nextName_delim s.cfg s.dec n
    rw [hname, hesc]
    exact ⟨rfl, rfl⟩
  | ignored hb hignoring =>
    obtain ⟨hbare, -⟩ := hinv.ignored hignoring
    obtain h | h := hinv.name?_of_ignoring hignoring
    all_goals
      obtain rfl := Option.some.inj (hn.symm.trans h)
      exact ⟨h.trans (congrArg some (if_neg hb).symm), hbare⟩
  | lenHi hb hlive h0 =>
    obtain rfl := Option.some.inj (hn.symm.trans (Dec.name?_start hlive h0))
    obtain ⟨-, -, hbare, -⟩ := hinv.fresh (by rw [h0]; decide)
    refine ⟨?_, hbare⟩
    exact (Dec.name?_lengthHigh (d := { s.dec with offset := 1, lenHigh := b }) hlive rfl).trans
      (congrArg some (if_neg hb).symm)
  | accept hb hlive h1 hfit =>
    obtain rfl := Option.some.inj (hn.symm.trans (Dec.name?_lengthHigh hlive h1))
    obtain ⟨-, -, hbare, -⟩ := hinv.fresh (by rw [h1]; decide)
    obtain ⟨-, hlt, -⟩ := (hinv.accept b h1 hfit).live hlive (Nat.le_refl 2)
    rw [nextName_lengthHigh _ _ hb, if_pos hfit]
    exact ⟨Dec.name?_counted (d := s.dec.accept b) hlive (Nat.le_refl 2) hlt, hbare⟩
  | reject hb hlive h1 hover =>
    obtain rfl := Option.some.inj (hn.symm.trans (Dec.name?_lengthHigh hlive h1))
    obtain ⟨-, -, hbare, -⟩ := hinv.fresh (by rw [h1]; decide)
    rw [nextName_lengthHigh _ _ hb, if_neg (Nat.not_le.mpr hover)]
    exact ⟨Dec.name?_rejected (d := s.dec.reject b) rfl rfl, hbare⟩
  | marker hb hlive h2 hbare =>
    obtain ⟨-, hlt, -⟩ := hinv.live hlive h2
    obtain rfl := Option.some.inj (hn.symm.trans (Dec.name?_counted hlive h2 hlt))
    subst hb
    rw [nextName_counted _ _ (by decide), nextEscape_counted, hbare, if_pos ⟨rfl, rfl⟩]
    exact ⟨hn, rfl⟩
  | data hb hlive h2 hmark hlt =>
    obtain rfl := Option.some.inj (hn.symm.trans (Dec.name?_counted hlive h2 (Nat.lt_of_succ_lt hlt)))
    rw [nextName_structural _ _ hb hmark, if_pos hlt, nextEscape_structural _ hmark]
    exact ⟨Dec.name?_take hlive h2 hlt _, rfl⟩
  | csum hb hlive h2 hmark hlast =>
    have hlt : s.dec.offset.toNat < s.dec.declaredSize.toNat := Nat.lt_of_succ_le (Nat.le_of_eq hlast)
    obtain rfl := Option.some.inj (hn.symm.trans (Dec.name?_counted hlive h2 hlt))
    rw [nextName_structural _ _ hb hmark, if_neg (by omega), nextEscape_structural _ hmark, finished_dec]
    exact ⟨Dec.name?_done rfl (succ_eq hlast) (by show 3 ≤ s.dec.declaredSize.toNat; omega), rfl⟩

/-! ### The statements -/

/-- Settles O40: the invariant rules out every combination R18 has no name for. -/
theorem decoderIsAlwaysInANamedState : Obligations.DecoderIsAlwaysInANamedState :=
  fun _ hinv => hinv.decoder.exists_name

/-- Settles O41: the byte is taken in one of the ways of `RxStep`, each a line of the table. -/
theorem receivedByteFollowsTheTransitionTable : Obligations.ReceivedByteFollowsTheTransitionTable := by
  intro s b rest n hinv hsafe hin hn
  obtain ⟨hcfg, hdec, -, -⟩ := hinv
  obtain ⟨t, ht, hstep⟩ := exists_rxStep (s := { s with inputs := rest }) hdec (three_le_bufCap hcfg) hsafe b
  exact ⟨t, (step_rx hin).trans ht, hstep.follows_table hdec hn⟩

end Sys2Proof.Machine
end

section
/-! PROOFS. Sequences of received bytes (R87): escape pairs, delimiters, the bytes between two delimiters, and what a
`frame_ready` hands over. -/

namespace Sys2Proof.Machine

/-! ### One structural byte on the wire -/

/-- In a frame with both length bytes consumed and no escape pending: the next logical byte is expected (R61). -/
structure State.ExpectsByte (s : State) : Prop where
  safe : s.fatal = false
  live : s.dec.ignoring = false
  counted : 2 ≤ s.dec.offset.toNat
  bare : s.dec.escapePending = false

theorem feed_singleton (b : Byte) (s : State) : feed [b] s = exec (decodeRx s.rxContext b) s := by
  rw [feed_cons]
  cases exec (decodeRx s.rxContext b) s <;> rfl

section
variable {s : State} (h : s.ExpectsByte)
include h

theorem feed_marker (l : List Byte) : feed (ESC :: l) s = feed l (setEscape true s) := by
  rw [feed_cons, decodeRx_marker (c := s.rxContext) h.safe h.live h.counted h.bare, exec_rxEsc_of_safe h.safe,
    andThen_next]

/-- An escape pair is the byte it stands for (R54, R55). -/
theorem feed_escapePair {x : Byte} (hx : x ≠ DELIM) : feed [ESC, x] s = takeStructural (escXor x) s := by
  have hback : setEscape false (setEscape true s) = s := setEscape_of_eq h.bare
  rw [feed_marker h, feed_singleton, exec_structural (s := setEscape true s) h.safe hx h.live h.counted nofun, hback]
  rfl

theorem feed_plain {v : Byte} (hdelim : v ≠ DELIM) (hmark : v ≠ ESC) : feed [v] s = takeStructural v s := by
  rw [feed_singleton, exec_structural h.safe hdelim h.live h.counted fun _ => hmark, setEscape_of_eq h.bare,
    Dec.unescape, if_neg (by rw [h.bare]; decide)]

/-- The wire bytes of a logical byte are taken as that byte. -/
theorem feed_stuff (v : Byte) : feed (stuff v) s = takeStructural v s := by
  by_cases hv : v ∈ RESERVED
  · have hx : escXor v ≠ DELIM := by
      obtain rfl | rfl | rfl | rfl : v = 0x11 ∨ v = 0x13 ∨ v = 0x7D ∨ v = 0x7E := by simpa using hv
      all_goals decide
    rw [stuff_of_reserved hv, feed_escapePair h hx, escXor_escXor]
  · rw [stuff_of_not_reserved hv]
    exact feed_plain h (fun hd => hv (by rw [hd]; decide)) fun hm => hv (by rw [hm]; decide)

end

/-- Settles O52: the pair is one structural byte, and whether it is data or the checksum it goes to the new offset. -/
theorem escapePairStoresOneByte : Obligations.EscapePairStoresOneByte := by
  intro s x hinv hsafe hlive h2 hbare hx
  obtain ⟨hroom, hbelow, -⟩ := hinv.decoder.live hlive h2
  have hfeed := feed_escapePair ⟨hsafe, hlive, h2, hbare⟩ hx
  obtain hlt | hlast := Nat.lt_or_ge (s.dec.offset.toNat + 1) s.dec.declaredSize.toNat
  · refine ⟨_, hfeed.trans (takeStructural_eq_take _ hlt (by omega)), succ_toNat hbelow, hbare, ?_⟩
    exact Dec.take_read hinv.decoder.memory _
  · have hend : s.dec.offset.toNat + 1 = s.dec.declaredSize.toNat := Nat.le_antisymm hbelow hlast
    refine ⟨_, hfeed.trans (takeStructural_eq_finished _ hlast hroom), ?_⟩
    rw [finished_dec, hend]
    exact ⟨(succ_toNat hbelow).trans hend, hbare, Dec.finish_read hinv.decoder.memory _⟩

/-! ### Delimiters -/

/-- A delimiter starts afresh, from any state (R76). -/
theorem feed_delim {s : State} (hsafe : s.fatal = false) :
    ∃ ls, feed [DELIM] s = .next { s with dec := Dec.fresh, labels := s.labels ++ ls } := by
  rw [feed_singleton, decodeRx_delim (c := s.rxContext) hsafe, exec_rxDelim_of_safe hsafe]
  split
  · exact ⟨[.frameAborted], rfl⟩
  · exact ⟨[], by rw [List.append_nil]; rfl⟩

/-- Received bytes keep the invariant and raise no fatal condition. -/
theorem feed_keeps_inv (bytes : List Byte) {s : State} (hinv : s.Inv) (hsafe : s.fatal = false) :
    ∃ t, feed bytes s = .next t ∧ t.Inv ∧ t.fatal = false := by
  induction bytes generalizing s with
  | nil => exact ⟨s, rfl, hinv, hsafe⟩
  | cons b rest ih =>
    obtain ⟨u, hu, huinv⟩ := runEvent_keeps_inv hinv (e := .rx b) rfl
    replace hu : exec (decodeRx s.rxContext b) s = .next u := hu
    obtain ⟨-, -, -, hunit, -⟩ := eachUnitWritesItsOwnState _ _ _ hu
    obtain ⟨-, -, -, hfatal, -⟩ := hunit b (encode_decodeRx _ b)
    rw [feed_cons, hu, andThen_next]
    exact ih huinv (hfatal.trans hsafe)

/-- Settles O49: any bytes are taken, and then the delimiter starts afresh. -/
theorem delimiterAlwaysResynchronises : Obligations.DelimiterAlwaysResynchronises := by
  intro s bytes hinv hsafe
  obtain ⟨u, hu, -, husafe⟩ := feed_keeps_inv bytes hinv hsafe
  obtain ⟨ls, hdelim⟩ := feed_delim husafe
  refine ⟨{ u with dec := Dec.fresh, labels := u.labels ++ ls }, ?_, rfl, rfl, rfl, rfl, rfl, rfl, fun _ => rfl⟩
  rw [feed_append, hu, andThen_next, hdelim]

/-! ### The bytes between two delimiters -/

theorem exec_decodeRx_of_ignoring {s : State} {b : Byte} (hignoring : s.dec.ignoring = true) (hb : b ≠ DELIM) :
    exec (decodeRx s.rxContext b) s = .next s := by
  cases hf : s.fatal with
  | true => exact exec_of_fatal (decodeRx_ne_reset _ b) hf
  | false =>
    rw [decodeRx_of_ignoring (c := s.rxContext) hf hb hignoring]
    rfl

/-- Settles O50: each byte is discarded, by induction on their number. -/
theorem frameIsStableUntilTheNextDelimiter : Obligations.FrameIsStableUntilTheNextDelimiter := by
  intro s bytes hignoring hbytes
  induction bytes with
  | nil => rfl
  | cons b rest ih =>
    obtain ⟨hb, hrest⟩ := List.forall_mem_cons.1 hbytes
    rw [feed_cons, exec_decodeRx_of_ignoring hignoring hb, andThen_next, ih hrest]

/-- Settles O51: the byte that raises an event sets `ignoring`, and after it nothing changes until a delimiter. -/
theorem atMostOneFramePerDelimiter : Obligations.AtMostOneFramePerDelimiter := by
  intro s t bytes hbytes h
  induction bytes generalizing s with
  | nil => exact .inl (Host.Outcome.next.inj h ▸ rfl)
  | cons b rest ih =>
    obtain ⟨-, hrest⟩ := List.forall_mem_cons.1 hbytes
    rw [feed_cons] at h
    obtain ⟨u, hu, h⟩ := andThen_eq_next h
    by_cases hquiet : u.frameReady = s.frameReady
    · exact hquiet ▸ ih u hrest h
    · obtain ⟨-, hraised, hignoring⟩ := onlyTheChecksumByteRaisesFrameReady _ s u hu hquiet
      rw [frameIsStableUntilTheNextDelimiter u rest hignoring hrest] at h
      obtain rfl := Host.Outcome.next.inj h
      exact .inr ⟨_, hraised⟩

/-! ### What `frame_ready` hands over -/

/-- A received byte that raises `frame_ready` is the expected checksum byte of the frame (R84, R88). -/
theorem RxStep.of_frameReady {s t : State} {b : Byte} (h : RxStep s b t) {n : Size}
    (hraised : t.frameReady = s.frameReady ++ [n]) :
    s.dec.ignoring = false ∧ 2 ≤ s.dec.offset.toNat ∧ s.dec.offset.toNat + 1 = s.dec.declaredSize.toNat ∧
    n = s.dec.declaredSize ∧
    t.dec = Dec.finish (0xFF - s.dec.checksumAccumulator) { s.dec with escapePending := false } := by
  cases h with
  | delim hb => split at hraised <;> simp at hraised
  | ignored | lenHi | accept | reject | marker | data => simp at hraised
  | csum hb hlive h2 hmark hlast =>
    rw [finished_dec]
    unfold finished at hraised
    split at hraised
    next hmatch =>
      obtain ⟨-, hn⟩ := List.append_inj' (hraised.symm.trans (raiseFrameReady_frameReady _ _)) rfl
      rw [(checksumMatches_iff _ _).1 hmatch]
      exact ⟨hlive, h2, hlast, List.head_eq_of_cons_eq hn, rfl⟩
    next => simp [endFrame] at hraised

/-- An input that raises `frame_ready` is a received byte. -/
theorem runEvent_frameReady {s t : State} {e : Event} {n : Size} (hcfg : s.cfg.Valid) (hdec : s.dec.Inv s.cfg)
    (he : e.external = true) (h : runEvent e s = .next t) (hraised : t.frameReady = s.frameReady ++ [n]) :
    ∃ b, RxStep s b t := by
  have hne : t.frameReady ≠ s.frameReady := by simp [hraised]
  cases e with
  | rx b =>
    replace h : exec (decodeRx s.rxContext b) s = .next t := h
    cases hf : s.fatal with
    | true =>
      obtain rfl := exec_next_unique (exec_of_fatal (decodeRx_ne_reset _ b) hf) h
      exact absurd rfl hne
    | false =>
      obtain ⟨u, hu, hstep⟩ := exists_rxStep hdec (three_le_bufCap hcfg) hf b
      exact ⟨b, exec_next_unique hu h ▸ hstep⟩
  | cmd p =>
    obtain ⟨q, hq⟩ := encode_decodeCmd p
    obtain ⟨-, -, -, -, hunit⟩ := eachUnitWritesItsOwnState (decodeCmd p) s t h
    obtain ⟨-, hquiet, -⟩ := hunit q hq
    exact absurd hquiet hne
  | reset => exact absurd (Host.Outcome.next.inj h ▸ rfl) hne
  | register k => exact absurd (Host.Outcome.next.inj h ▸ rfl) hne
  | tx r k v | internal j => cases he

/-- A step that raises `frame_ready` is one received byte. -/
theorem step_frameReady {s t : State} {n : Size} (hinv : s.Inv) (h : step s = .next t)
    (hraised : t.frameReady = s.frameReady ++ [n]) : ∃ b rest, RxStep { s with inputs := rest } b t := by
  obtain ⟨hcfg, hdec, -, hext⟩ := hinv
  cases hin : s.inputs with
  | nil =>
    rw [step, hin] at h
    obtain rfl := Host.Outcome.next.inj h
    simp at hraised
  | cons e rest =>
    rw [step_cons hin] at h
    have he : e.external = true := hext e (by simp [hin])
    obtain ⟨b, hstep⟩ := runEvent_frameReady (s := { s with inputs := rest }) hcfg hdec he h hraised
    exact ⟨b, rest, hstep⟩

/-- What the expected checksum byte leaves in the decoder: a valid frame (R87 items 3 and 5, R143). -/
theorem Dec.Inv.finish_valid {cfg : Config} {d f : Dec} (hinv : d.Inv cfg) (hlive : d.ignoring = false)
    (h2 : 2 ≤ d.offset.toNat) (hbare : d.escapePending = false) (hlast : d.offset.toNat + 1 = d.declaredSize.toNat)
    (hf : f = d.finish (0xFF - d.checksumAccumulator)) :
    3 ≤ d.declaredSize.toNat ∧ f.offset = d.declaredSize ∧ f.declaredSize = d.declaredSize ∧ f.ignoring = true ∧
    f.escapePending = false ∧ f.Header ∧
    f.buffer.read d.declaredSize.toNat =
      0xFF - BitVec.ofNat 8 ((List.range' 3 (d.declaredSize.toNat - 3)).map fun i => (f.buffer.read i).toNat).sum ∧
    ∀ a, d.declaredSize.toNat < a → f.buffer.read a = 0 := by
  have hdone : f.Inv cfg := hf ▸ hinv.finish hlive h2 hbare _ hlast
  have hend : f.offset = d.declaredSize := hf ▸ succ_eq hlast
  have hsize : f.declaredSize = d.declaredSize := by rw [hf, Dec.finish]
  have hignoring : f.ignoring = true := by rw [hf, Dec.finish]
  obtain ⟨hpending, ⟨htwo, -⟩ | ⟨-, hthree, -, hheader, hsum⟩⟩ := hdone.ignored hignoring
  · rw [hend] at htwo
    omega
  rw [hsize] at hthree hsum
  refine ⟨hthree, hend, hsize, hignoring, hpending, hheader, ?_, fun a ha => hdone.above a ?_⟩
  · have hcount : d.declaredSize.toNat - 1 + 1 - 3 = d.declaredSize.toNat - 3 := by omega
    have hacc : d.checksumAccumulator = sumBytes f.buffer.read 3 (d.declaredSize.toNat - 3) := by
      rw [← hcount]
      exact Eq.trans (by rw [hf, Dec.finish]) hsum
    rw [← sumBytes_eq, ← hacc, hf, Dec.finish_read hinv.memory, if_pos rfl]
  · rw [hend]
    omega

/-- Settles O53: the event is the step of the checksum byte, and that byte leaves a valid frame. -/
theorem frameReadyHandsOverAValidFrame : Obligations.FrameReadyHandsOverAValidFrame := by
  intro s t n hinv h hraised
  obtain ⟨b, rest, hstep⟩ := step_frameReady hinv h hraised
  obtain ⟨hlive, h2, hlast, rfl, hdec⟩ := hstep.of_frameReady hraised
  have hbare := hinv.decoder.setEscape false nofun
  obtain ⟨hthree, hoff, hsize, hignoring, hpending, hheader, hsum, habove⟩ :=
    hbare.finish_valid hlive h2 rfl hlast hdec
  exact ⟨hthree, hoff, hsize, hignoring, hpending, hheader.delimiter, hheader.length.trans (congrArg _ hsize), hsum,
    habove⟩

end Sys2Proof.Machine
end

section
/-! PROOFS. Whole frames (R87 item 6, R128): decoding the wire frame of a logical frame gives the frame back. -/

namespace Sys2Proof.Machine

/-! ### A run of data bytes -/

/-- The decoder a run of data bytes leaves. -/
def Dec.takeAll : List Byte → Dec → Dec
  | [], d => d
  | v :: rest, d => takeAll rest (d.take v)

section
variable (l : List Byte) (d : Dec)

@[simp] theorem Dec.takeAll_declaredSize : (d.takeAll l).declaredSize = d.declaredSize := by
  induction l generalizing d with
  | nil => rfl
  | cons v rest ih => exact ih (d.take v)

@[simp] theorem Dec.takeAll_ignoring : (d.takeAll l).ignoring = d.ignoring := by
  induction l generalizing d with
  | nil => rfl
  | cons v rest ih => exact ih (d.take v)

@[simp] theorem Dec.takeAll_escapePending : (d.takeAll l).escapePending = d.escapePending := by
  induction l generalizing d with
  | nil => rfl
  | cons v rest ih => exact ih (d.take v)

theorem Dec.takeAll_acc : (d.takeAll l).checksumAccumulator = l.foldl addByte d.checksumAccumulator := by
  induction l generalizing d with
  | nil => rfl
  | cons v rest ih => exact ih (d.take v)

theorem Dec.takeAll_wf (hm : d.buffer.wf) : (d.takeAll l).buffer.wf := by
  induction l generalizing d with
  | nil => exact hm
  | cons v rest ih => exact ih (d.take v) (Dec.take_wf v hm)

end

/-- A data byte before the checksum advances the offset by one. -/
theorem Dec.take_offset {d : Dec} (v : Byte) {k : Nat} (h : d.offset.toNat + (k + 1) < d.declaredSize.toNat) :
    (d.take v).offset.toNat = d.offset.toNat + 1 :=
  succ_toNat (d := d.declaredSize) (by omega)

/-- And leaves room for the rest of the run. -/
theorem Dec.take_room {d : Dec} (v : Byte) {k : Nat} (h : d.offset.toNat + (k + 1) < d.declaredSize.toNat) :
    (d.take v).offset.toNat + k < (d.take v).declaredSize.toNat := by
  rw [Dec.take_offset v h]
  show d.offset.toNat + 1 + k < d.declaredSize.toNat
  omega

theorem Dec.takeAll_offset {l : List Byte} {d : Dec} (h : d.offset.toNat + l.length < d.declaredSize.toNat) :
    (d.takeAll l).offset.toNat = d.offset.toNat + l.length := by
  induction l generalizing d with
  | nil => rfl
  | cons v rest ih =>
    rw [List.length_cons] at h ⊢
    rw [Dec.takeAll, ih (Dec.take_room v h), Dec.take_offset v h]
    omega

/-- The bytes up to the offset stay. -/
theorem Dec.takeAll_read_before {l : List Byte} {d : Dec} (hm : d.buffer.wf)
    (h : d.offset.toNat + l.length < d.declaredSize.toNat) {a : Nat} (ha : a ≤ d.offset.toNat) :
    (d.takeAll l).buffer.read a = d.buffer.read a := by
  induction l generalizing d with
  | nil => rfl
  | cons v rest ih =>
    rw [List.length_cons] at h
    have hoff := Dec.take_offset v h
    rw [Dec.takeAll, ih (Dec.take_wf v hm) (Dec.take_room v h) (by omega), Dec.take_read hm, if_neg (by omega)]

/-- The bytes behind the offset are the run, in its order. -/
theorem Dec.takeAll_read_run {l : List Byte} {d : Dec} (hm : d.buffer.wf)
    (h : d.offset.toNat + l.length < d.declaredSize.toNat) {i : Nat} (hi : i < l.length) :
    l[i]? = some ((d.takeAll l).buffer.read (d.offset.toNat + 1 + i)) := by
  induction l generalizing d i with
  | nil => exact absurd hi (Nat.not_lt_zero i)
  | cons v rest ih =>
    rw [List.length_cons] at h hi
    have hoff := Dec.take_offset v h
    have hrest := Dec.take_room v h
    cases i with
    | zero =>
      rw [Dec.takeAll, Dec.takeAll_read_before (Dec.take_wf v hm) hrest (by omega), Dec.take_read hm, if_pos (by omega)]
      rfl
    | succ i =>
      rw [List.getElem?_cons_succ, ih (Dec.take_wf v hm) hrest (Nat.lt_of_succ_lt_succ hi), hoff, Dec.takeAll]
      congr 2
      omega

/-- The wire bytes of a run of data bytes are taken as that run. -/
theorem feed_run (l : List Byte) {s : State} (hs : s.ExpectsByte)
    (h : s.dec.offset.toNat + l.length < s.dec.declaredSize.toNat) (hcap : s.dec.declaredSize.toNat < s.cfg.bufCap) :
    feed (l.flatMap stuff) s = .next { s with dec := s.dec.takeAll l } := by
  induction l generalizing s with
  | nil => rfl
  | cons v rest ih =>
    rw [List.length_cons] at h
    have hoff := Dec.take_offset v h
    have hnext : State.ExpectsByte { s with dec := s.dec.take v } :=
      ⟨hs.safe, hs.live, by show 2 ≤ (s.dec.take v).offset.toNat; have := hs.counted; omega, hs.bare⟩
    rw [List.flatMap_cons, feed_append, feed_stuff hs, takeStructural_eq_take v (by omega) (by omega), andThen_next]
    exact ih hnext (Dec.take_room v h) hcap

/-! ### The head of a frame -/

/-- The decoder after the delimiter and the two length bytes of a frame that fits. -/
def Dec.opened (b1 b2 : Byte) : Dec := Dec.accept b2 { Dec.fresh with offset := 1, lenHigh := b1 }

theorem Dec.opened_read (b1 b2 : Byte) (a : Nat) :
    (Dec.opened b1 b2).buffer.read a = if a = 0 then DELIM else if a = 1 then b1 else if a = 2 then b2 else 0 :=
  Dec.accept_read (d := { Dec.fresh with offset := 1, lenHigh := b1 }) rfl b2 a

theorem Dec.opened_offset (b1 b2 : Byte) : (Dec.opened b1 b2).offset.toNat = 2 := rfl

theorem Dec.opened_declaredSize (b1 b2 : Byte) :
    (Dec.opened b1 b2).declaredSize.toNat = declaredLength b1 b2 + 3 := declaredSizeOf_toNat b1 b2

section
variable {s : State} (hsafe : s.fatal = false) {b : Byte} (hb : b ≠ DELIM) (hlive : s.dec.ignoring = false)
include hsafe hb hlive

theorem feed_lenHi (h0 : s.dec.offset = 0) (l : List Byte) :
    feed (b :: l) s = feed l { s with dec := { s.dec with offset := 1, lenHigh := b } } := by
  rw [feed_cons, decodeRx_of_offset_zero (c := s.rxContext) hsafe hb hlive h0, exec_rxLenHi_of_safe hsafe, andThen_next]

theorem feed_lenLo (h1 : s.dec.offset = 1) (hfit : declaredLength s.dec.lenHigh b + 4 ≤ s.cfg.bufCap) :
    feed [b] s = .next { s with dec := s.dec.accept b } := by
  rw [feed_singleton, decodeRx_of_fits (c := s.rxContext) hsafe hb hlive h1 hfit, exec_rxLenLo_inside hsafe]
  omega

end

/-! ### The end of a frame -/

/-- Before its last wire byte a logical byte has at most left the marker behind. -/
theorem feed_stuff_dropLast {s : State} (hs : s.ExpectsByte) (v : Byte) :
    ∃ p, feed (stuff v).dropLast s = .next (setEscape p s) := by
  by_cases hv : v ∈ RESERVED
  · rw [stuff_of_reserved hv]
    exact ⟨true, feed_marker hs []⟩
  · rw [stuff_of_not_reserved hv]
    exact ⟨false, congrArg _ (setEscape_of_eq hs.bare).symm⟩

theorem stuff_ne_nil (v : Byte) : stuff v ≠ [] := by
  unfold stuff
  split <;> simp

/-- The wire bytes of the expected checksum byte end the frame and raise the event (R84, R88). -/
theorem feed_checksum {s : State} (hs : s.ExpectsByte) (hlast : s.dec.declaredSize.toNat ≤ s.dec.offset.toNat + 1)
    (hcap : s.dec.declaredSize.toNat < s.cfg.bufCap) {v : Byte} (hv : v = 0xFF - s.dec.checksumAccumulator) :
    ∃ t, feed (stuff v) s = .next t ∧ t.frameReady = s.frameReady ++ [s.dec.declaredSize] ∧ t.dec = s.dec.finish v := by
  refine ⟨_, (feed_stuff hs v).trans (takeStructural_eq_finished v hlast hcap), ?_, finished_dec v s⟩
  rw [finished, if_pos ((checksumMatches_iff _ _).2 hv), raiseFrameReady_frameReady]
  rfl

/-! ### The frame in the buffer -/

/-- The checksum byte of a logical frame (R51). -/
def specChecksum (data : List Byte) : Byte := 0xFF - BitVec.ofNat 8 (data.map BitVec.toNat).sum

theorem specFrame_eq (data : List Byte) :
    specFrame data = 0x7E :: BitVec.ofNat 8 (data.length / 256) :: BitVec.ofNat 8 data.length ::
      (data ++ [specChecksum data]) := rfl

/-- The wire frame: its head, and the wire bytes of the checksum. -/
theorem wireFrame_specFrame (data : List Byte) :
    wireFrame (specFrame data) =
      (DELIM :: ([BitVec.ofNat 8 (data.length / 256), BitVec.ofNat 8 data.length] ++ data).flatMap stuff) ++
        stuff (specChecksum data) := by
  simp [specFrame_eq, wireFrame_cons]

theorem declaredLength_length {n : Nat} (h : n < 65536) :
    declaredLength (BitVec.ofNat 8 (n / 256)) (BitVec.ofNat 8 n) = n := by
  simp [declaredLength]
  omega

/-- The decoder that has taken the head of a frame and its data, and expects the checksum. -/
def Dec.loaded (b1 b2 : Byte) (data : List Byte) : Dec := (Dec.opened b1 b2).takeAll data

section
variable {b1 b2 : Byte} {data : List Byte}

theorem Dec.opened_wf : (Dec.opened b1 b2).buffer.wf := Dec.accept_wf b2 rfl

theorem Dec.loaded_wf : (Dec.loaded b1 b2 data).buffer.wf := Dec.takeAll_wf data _ Dec.opened_wf

theorem Dec.loaded_acc : specChecksum data = 0xFF - (Dec.loaded b1 b2 data).checksumAccumulator := by
  rw [Dec.loaded, Dec.takeAll_acc, show (Dec.opened b1 b2).checksumAccumulator = 0 from rfl, foldl_addByte_eq,
    specChecksum]

variable (hlen : declaredLength b1 b2 = data.length)
include hlen

theorem Dec.opened_room : (Dec.opened b1 b2).offset.toNat + data.length < (Dec.opened b1 b2).declaredSize.toNat := by
  rw [Dec.opened_declaredSize, Dec.opened_offset, hlen]
  omega

theorem Dec.loaded_declaredSize : (Dec.loaded b1 b2 data).declaredSize.toNat = data.length + 3 := by
  rw [Dec.loaded, Dec.takeAll_declaredSize, Dec.opened_declaredSize, hlen]

theorem Dec.loaded_offset : (Dec.loaded b1 b2 data).offset.toNat = data.length + 2 := by
  rw [Dec.loaded, Dec.takeAll_offset (Dec.opened_room hlen), Dec.opened_offset, Nat.add_comm]

/-- Once the checksum is stored, the bytes of the frame stand in the buffer in their order. -/
theorem Dec.loaded_finish_read (v : Byte) {i : Nat} (hi : i < data.length + 4) :
    (DELIM :: b1 :: b2 :: (data ++ [v]))[i]? = some (((Dec.loaded b1 b2 data).finish v).buffer.read i) := by
  have hroom := Dec.opened_room hlen
  rw [Dec.finish_read Dec.loaded_wf, Dec.loaded_declaredSize hlen, Dec.loaded]
  match i with
  | 0 | 1 | 2 =>
    rw [if_neg (by omega), Dec.takeAll_read_before Dec.opened_wf hroom (by simp [Dec.opened_offset]), Dec.opened_read]
    rfl
  | i + 3 =>
    simp only [List.getElem?_cons_succ]
    obtain hdata | hlast := Nat.lt_or_ge i data.length
    · rw [if_neg (by omega), List.getElem?_append_left hdata, Dec.takeAll_read_run Dec.opened_wf hroom hdata,
        Nat.add_comm i 3]
      rfl
    · obtain rfl : i = data.length := by omega
      rw [if_pos rfl, List.getElem?_concat_length]

end

/-- From any state with `fatal = 0`, the head of a frame that fits and its data bytes are taken. -/
theorem feed_head {s : State} (hsafe : s.fatal = false) {b1 b2 : Byte} (h1 : b1 ∉ RESERVED) (h2 : b2 ∉ RESERVED)
    {data : List Byte} (hlen : declaredLength b1 b2 = data.length) (hfit : data.length + 4 ≤ s.cfg.bufCap) :
    ∃ u, feed (DELIM :: ([b1, b2] ++ data).flatMap stuff) s = .next u ∧ u.dec = Dec.loaded b1 b2 data ∧ u.cfg = s.cfg ∧
      u.fatal = false ∧ u.frameReady = s.frameReady := by
  obtain ⟨ls, hdelim⟩ := feed_delim hsafe
  refine ⟨{ s with dec := Dec.loaded b1 b2 data, labels := s.labels ++ ls }, ?_, rfl, rfl, hsafe, rfl⟩
  have hsize := Dec.opened_declaredSize b1 b2
  have hstuff : ([b1, b2] ++ data).flatMap stuff = [b1, b2] ++ data.flatMap stuff := by
    simp [stuff_of_not_reserved h1, stuff_of_not_reserved h2]
  have hne : ∀ {b : Byte}, b ∉ RESERVED → b ≠ DELIM := fun hb h => hb (by rw [h]; decide)
  have hroom : declaredLength b1 b2 + 4 ≤ s.cfg.bufCap := by omega
  have hopen : feed [b1, b2] { s with dec := Dec.fresh, labels := s.labels ++ ls } =
      .next { s with dec := Dec.opened b1 b2, labels := s.labels ++ ls } := by
    rw [feed_lenHi (s := { s with dec := Dec.fresh, labels := s.labels ++ ls }) hsafe (hne h1) rfl rfl]
    exact feed_lenLo (s := { s with dec := { Dec.fresh with offset := 1, lenHigh := b1 }, labels := s.labels ++ ls })
      hsafe (hne h2) rfl rfl hroom
  rw [hstuff, ← List.singleton_append, feed_append, hdelim, andThen_next, feed_append, hopen, andThen_next]
  exact feed_run data (s := { s with dec := Dec.opened b1 b2, labels := s.labels ++ ls })
    ⟨hsafe, rfl, Nat.le_refl 2, rfl⟩ (by show 2 + data.length < (Dec.opened b1 b2).declaredSize.toNat; omega)
    (by show (Dec.opened b1 b2).declaredSize.toNat < s.cfg.bufCap; omega)

/-- A state with a loaded decoder expects the checksum byte. -/
theorem State.ExpectsByte.of_loaded {s : State} (hsafe : s.fatal = false) {b1 b2 : Byte} {data : List Byte}
    (hlen : declaredLength b1 b2 = data.length) (hdec : s.dec = Dec.loaded b1 b2 data) : s.ExpectsByte where
  safe := hsafe
  live := by rw [hdec, Dec.loaded, Dec.takeAll_ignoring]; rfl
  counted := by rw [hdec, Dec.loaded_offset hlen]; omega
  bare := by rw [hdec, Dec.loaded, Dec.takeAll_escapePending]; rfl

/-- Settles O54: the head opens the frame, the run fills it, and the checksum byte, on its last wire byte, ends it. -/
theorem wireFrameIsAlwaysDecoded : Obligations.WireFrameIsAlwaysDecoded := by
  intro s data hvalid hsafe hfit h1 h2
  obtain ⟨-, hcap, -⟩ := hvalid
  have hlen := declaredLength_length (n := data.length) (by omega)
  obtain ⟨u, hhead, hudec, hucfg, husafe, huframes⟩ := feed_head hsafe h1 h2 hlen hfit
  have hexpects := State.ExpectsByte.of_loaded husafe hlen hudec
  have hsize := Dec.loaded_declaredSize hlen
  have hoff := Dec.loaded_offset hlen
  rw [← hudec] at hsize hoff
  obtain ⟨p, hbefore⟩ := feed_stuff_dropLast hexpects (specChecksum data)
  obtain ⟨t, hend, hraised, hdec⟩ := feed_checksum hexpects (by omega) (by rw [hucfg]; omega) (hudec ▸ Dec.loaded_acc)
  rw [wireFrame_specFrame, List.dropLast_append_of_ne_nil (stuff_ne_nil _), feed_append, feed_append, hhead,
    andThen_next, andThen_next]
  refine ⟨_, t, u.dec.declaredSize, hbefore, huframes, hend, hraised.trans (by rw [huframes]), hsize, fun i hi => ?_⟩
  rw [hdec, hudec]
  exact Dec.loaded_finish_read hlen (specChecksum data) hi

/-- The data of a decoded frame stands behind the three header bytes. -/
theorem feed_wireFrame {s : State} {data : List Byte} (hvalid : s.cfg.Valid) (hsafe : s.fatal = false)
    (hfit : data.length + 4 ≤ s.cfg.bufCap) (h1 : BitVec.ofNat 8 (data.length / 256) ∉ RESERVED)
    (h2 : BitVec.ofNat 8 data.length ∉ RESERVED) :
    ∃ t n, feed (wireFrame (specFrame data)) s = .next t ∧ t.frameReady = s.frameReady ++ [n] ∧
      n.toNat = data.length + 3 ∧ ∀ i, i < data.length → data[i]? = some (t.dec.buffer.read (3 + i)) := by
  obtain ⟨-, t, n, -, -, hfeed, hraised, hn, hread⟩ := wireFrameIsAlwaysDecoded s data hvalid hsafe hfit h1 h2
  refine ⟨t, n, hfeed, hraised, hn, fun i hi => ?_⟩
  rw [← hread (3 + i) (by omega), specFrame_eq, Nat.add_comm 3 i]
  simp only [List.getElem?_cons_succ]
  exact (List.getElem?_append_left hi).symm

/-! ### Round trips (R128) -/

/-- The payload is the end of the frame data (R60). -/
theorem txData_getElem? (c : Config) (dest : Address) (payload : List Byte) (k : Nat) :
    (txData c dest payload)[c.txPre.length + 8 + c.txPost.length + k]? = payload[k]? := by
  have hlen : (c.txPre ++ bytesBE dest ++ c.txPost).length = c.txPre.length + 8 + c.txPost.length := by
    simp [bytesBE]
    omega
  rw [txData, ← hlen, List.getElem?_append_right (Nat.le_add_right _ _), Nat.add_sub_cancel_left]

/-- Settles O55: the command writes the wire frame, and decoding it gives the data back, the payload at its end. -/
theorem streamedDataFrameRoundTrips : Obligations.StreamedDataFrameRoundTrips := by
  intro s dest payload hvalid hsafe hlen hfit h1 h2
  obtain ⟨u, n, hfeed, hraised, hn, hread⟩ := feed_wireFrame
    (s := sent ((wireFrame (specFrame (txData s.cfg dest payload))).map .byte) s) hvalid hsafe hfit h1 h2
  refine ⟨_, _, u, n, exec_sendDataEsc_of_fits hsafe dest hlen, (writtenBytes_sent _ s).trans ?_, hfeed, hraised, hn,
    fun k hk => ?_⟩
  · rw [bytes_of_byte_txns]
  · rw [← txData_getElem? s.cfg dest payload k, hread _ (by rw [txData_length]; omega)]
    congr 2
    omega

/-- Settles O56: the command writes the wire frame, and decoding it gives type, id, code and parameters back. -/
theorem commandFrameRoundTrips : Obligations.CommandFrameRoundTrips := by
  intro s cmd0 cmd1 param hvalid hsafe hesc hlen hfit h2
  have hatlen := atData_length s.cfg s.enc.frameId cmd0 cmd1 param
  obtain ⟨-, -, -, hcap, -⟩ := id hvalid
  obtain ⟨u, n, hfeed, hraised, hn, hread⟩ := feed_wireFrame
    (s := fidNext (sent (atTxns s.cfg (specFrame (atData s.cfg s.enc.frameId cmd0 cmd1 param))) s))
    (data := atData s.cfg s.enc.frameId cmd0 cmd1 param) hvalid hsafe
    (by rw [hatlen]; show _ ≤ s.cfg.bufCap; omega)
    (by rw [hatlen, Nat.div_eq_of_lt (by omega)]; decide) (by rwa [hatlen])
  rw [hatlen] at hn hread
  refine ⟨_, _, u, n, exec_sendAt_of_fits hsafe cmd0 cmd1 hlen, (writtenBytes_sent _ s).trans ?_, hfeed, hraised,
    by omega, ?_, ?_, ?_, ?_, fun k hk => ?_⟩
  · rw [atTxns, if_pos hesc, bytes_of_byte_txns]
  · exact (Option.some.inj (hread 0 (by omega))).symm
  · exact (Option.some.inj (hread 1 (by omega))).symm
  · exact (Option.some.inj (hread 2 (by omega))).symm
  · exact (Option.some.inj (hread 3 (by omega))).symm
  · rw [show 7 + k = 3 + (k + 4) by omega]
    exact hread (k + 4) (by omega)

end Sys2Proof.Machine
end
